-- ==== Sys2Proof/Config.lean ====
section
/-! DEFINITION. What is fixed for one engine: the implementation parameters of spec/00_scope.md R8, their values for this
hardware, and the constants the spec leaves open (declared without a body, so that no proof can see a value). -/

namespace Sys2Proof.Config

/-- The order in which a byte's bits pass over a serial line (R8, R103, R104). -/
inductive BitOrder where
  | msbFirst
  | lsbFirst
  deriving DecidableEq, Repr

/-- How "not tracked" is represented per button (R8, R26, R131). -/
inductive SentinelMode where
  | explicit
  | zero
  deriving DecidableEq, Repr

/-- The parameters of R8 that some rule reads. They are plain data, carried in `State.cfg` and changed by no step, so that
every statement about a step speaks of every configuration at once (notes/assumptions/1.md). The two thresholds are
numbers because R10 has still to check that they fit `TW` bits. -/
structure Params where
  /-- `TW`: the width in bits of the `now` input, of each TSTART entry, of the thresholds, of the duration arithmetic and of
  the read-data port. -/
  tw : Nat
  /-- `HALF`: engine cycles in one SCLK half-period and in each latch hold. -/
  half : Nat
  /-- `LATCH_ACTIVE`: the LATCH level that means "asserted". -/
  latchActive : Bool
  /-- `SHIFT_OUT_ORDER`. -/
  shiftOut : BitOrder
  /-- `SHIFT_IN_ORDER`. -/
  shiftIn : BitOrder
  /-- `SDO_FILL`: the SDO level outside PH_B. -/
  sdoFill : Bool
  /-- `SENTINEL_MODE`. -/
  sentinel : SentinelMode
  /-- `EXT_RESET`: the ExtenderBuffer's reset value. -/
  extReset : BitVec 8
  /-- `DEB_RESET`: debounceThreshold after reset. -/
  debReset : Nat
  /-- `LONG_RESET`: longPressThreshold after reset. -/
  longReset : Nat
  deriving DecidableEq, Repr

/-- The values R8 gives for this hardware. -/
def pnlCe02 : Params where
  tw := 32
  half := 1
  latchActive := false
  shiftOut := .msbFirst
  shiftIn := .msbFirst
  sdoFill := false
  sentinel := .explicit
  extReset := 0x00#8
  debReset := 50
  longReset := 2000

/-- FREE VALUE (R110, decision D29): the SDI level at the n-th sampling instant for which the run's board script lists no
level. Nothing constrains it. Safe: notes/assumptions/4.md. -/
opaque freeSdi : Nat → Bool

/-- `EXT_LINE_MAP` (R8, R76), OPEN: the board signal that each ExtenderBuffer line drives. No rule reads it. -/
opaque extLineMap : Fin 8 → String

/-- `TIME_UNIT` (R8, D27), OPEN: the physical unit of `now`. No rule reads it. -/
opaque timeUnit : String

/-- `HOST_MAP` (R8, R57), OPEN: where the engine's ports sit in a host's address map. No rule reads it. -/
opaque hostMap : String

end Sys2Proof.Config
end

