-- ==== Sys2Proof/Word.lean ====
section
/-! DEFINITION. The words of the engine: bytes, command words, read addresses. Every value is unsigned (R11).

A time value (`now`, a timestamp, a threshold, a duration, the read data) has TW bits, and TW is a parameter of the engine (R8)
and not one number. So it is a natural number in the model: a value taken from a port is cut to TW bits (`Machine.portValue`),
subtraction is modulo 2^TW (`Machine.subTW`), and that every register stays below 2^TW is an invariant (`Machine.WidthInv`;
notes/assumptions/27.md). -/

namespace Sys2Proof

/-- An 8-bit mask, buffer or raw byte (R9). -/
abbrev Byte := BitVec 8

/-- The 16-bit command word (R70). -/
abbrev CmdWord := BitVec 16

/-- The 5-bit read address (R51). -/
abbrev ReadAddr := BitVec 5

end Sys2Proof
end

