-- ==== Sys2Proof/Syntax.lean ====
section
/-! DEFINITION. What can be written for the engine: the six commands of the opcode map (spec/30_encoding.md R73), the buttons
(R75), the moves of the host and the board that drive the engine's input ports (spec/60_exceptions.md R207), and the assembler
notation of R79. -/

namespace Sys2Proof

/-- The eight buttons, in the order of the bit map of R75 (bit 0 = Right, …, bit 7 = Home); `Button.bit` gives the bit. -/
inductive Button where
  | right
  | ok
  | up
  | left
  | start
  | down
  | stop
  | home
  deriving DecidableEq, Repr

/-- The command set PNLCE02-CORE-1: one constructor per row of spec/opcode_table.json (R73). The operand types admit exactly
the values of the word's fields, so no operand is out of range (R72). CONFIGURE's two operands are on the operand buses,
not in the word (R70), and are read from the input ports when the command is accepted. -/
inductive Instr where
  /-- NOP, format Z (R170). -/
  | nop
  /-- SAMPLE, format Z (R111). -/
  | sample
  /-- TICK, format Z (R136). -/
  | tick
  /-- CLASSIFY, format M: the ButtonMask to classify (R135). -/
  | classify (mask : Byte)
  /-- SETBIT, format S: the ExtenderBuffer line and the value written to it (R161). -/
  | setbit (line : Fin 8) (value : Bool)
  /-- CONFIGURE, format C (R171). -/
  | configure
  deriving DecidableEq, Repr

/-- What the host and the board can do to the engine (R207, R7). Each is one step of the model. -/
inductive HostMove where
  /-- Offer a command word with its operand buses and hold `cmd_valid` until it is accepted; the step that accepts it runs
  it to its commit (R13, R175). -/
  | command (word : CmdWord) (argA argB : Nat)
  /-- Drive `cmd_valid` = 1 with this word for exactly one engine clock cycle (R175). -/
  | offer (word : CmdWord) (argA argB : Nat)
  /-- One engine clock cycle with exactly these levels on `rst`, `cmd_valid`, `cmd_word` and the operand buses, a word offered
  while `rst` = 1 among them (R207, R34). -/
  | cycle (rst valid : Bool) (word : CmdWord) (argA argB : Nat)
  /-- One engine clock cycle with `cmd_valid` = 0 and `rst` = 0. -/
  | idle
  /-- One engine clock cycle with `rst` = 1 and `cmd_valid` = 0 (R230). -/
  | rst
  /-- Drive the `now` input from here on (R211); like the operand buses it is TW bits wide, and the engine takes its low TW
  bits. -/
  | now (t : Nat)
  /-- The SDI levels the board presents at the coming sampling instants, first instant first (R110). -/
  | sdi (levels : List Bool)
  /-- Drive the read address (R51). -/
  | read (addr : ReadAddr)
  deriving DecidableEq, Repr

/-- A register named in a READ directive (R79; the addresses are those of R51). -/
inductive RegName where
  | status
  | pressed
  | short
  | long
  | ext
  | rawin
  | deb
  | longth
  | track
  | tstart (i : Nat)
  deriving DecidableEq, Repr

/-- A `<mask>` operand of R79: a number, or a list of button constants joined by `|`. -/
inductive MaskArg where
  | number (n : Nat)
  | buttons (bs : List Button)
  deriving DecidableEq, Repr

/-- One line of the assembler notation of R79: commands, pseudo-instructions and harness directives. Operands are the
numbers as written; `Asm.wellFormed` says which are in range. -/
inductive Asm where
  | nop
  | sample
  | tick
  | classify (mask : MaskArg)
  | setbit (line value : Nat)
  | configure (deb lng : Nat)
  /-- `LINEON <line>` = `SETBIT <line>, 1`. -/
  | lineOn (line : Nat)
  /-- `LINEOFF <line>` = `SETBIT <line>, 0`. -/
  | lineOff (line : Nat)
  /-- `CONFIGURE_DEFAULT` = `CONFIGURE 50, 2000`. -/
  | configureDefault
  /-- `@now <n>`. -/
  | atNow (n : Nat)
  /-- `@sdi <byte>`. -/
  | atSdi (b : Nat)
  /-- `READ <register>`. -/
  | readReg (r : RegName)
  /-- `@rst`. -/
  | atRst
  /-- `.word <hex>`: a raw command word, with zero operand buses. -/
  | word (w : Nat)
  deriving DecidableEq, Repr

end Sys2Proof
end

