-- ==== Sys2Proof/WellFormed.lean ====
section
/-! DEFINITION. What must hold of a term before it means anything: a configuration is legal (spec/00_scope.md R10), and an
assembler line's operands are in range (spec/30_encoding.md R79). An `Instr` needs no check of its own: R72 says no field of
a command word can be out of range, and its operand types admit exactly those values. -/

namespace Sys2Proof

/-- R10's three conditions, with R8's legal values of TW ("integer ≥ 12"); the other ranges of R8 follow from these or from the
types. "A model refuses an illegal configuration: it is not a machine." -/
def Config.Params.legal (c : Config.Params) : Bool :=
  decide (c.debReset < c.longReset) && decide (c.longReset < 2 ^ c.tw) && decide (1 ≤ c.half) && decide (12 ≤ c.tw)

/-- A `<mask>` is an 8-bit number or a list of button constants (R79). -/
def MaskArg.wellFormed : MaskArg → Bool
  | .number n => decide (n < 2 ^ 8)
  | .buttons _ => true

/-- TSTART has eight entries (R9, R51). -/
def RegName.wellFormed : RegName → Bool
  | .tstart i => decide (i < 8)
  | .status | .pressed | .short | .long | .ext | .rawin | .deb | .longth | .track => true

/-- Operand ranges of the assembler notation (R79, R70, R72): `<mask>` 8 bits, `<line>` 0 to 7, `<value>` 0 or 1, times and
thresholds TW bits, `@sdi` one byte, `.word` 16 bits. `tw` is the engine's TW. -/
def Asm.wellFormed (tw : Nat) : Asm → Bool
  | .nop | .sample | .tick | .configureDefault | .atRst => true
  | .classify mask => mask.wellFormed
  | .setbit line value => decide (line < 8) && decide (value < 2)
  | .configure deb lng => decide (deb < 2 ^ tw) && decide (lng < 2 ^ tw)
  | .lineOn line => decide (line < 8)
  | .lineOff line => decide (line < 8)
  | .atNow n => decide (n < 2 ^ tw)
  | .atSdi b => decide (b < 2 ^ 8)
  | .readReg r => r.wellFormed
  | .word w => decide (w < 2 ^ 16)

end Sys2Proof
end

