-- ==== Sys2Proof/Decode.lean ====
section
/-! DEFINITION. The encodings of spec/30_encoding.md: the fields of the command word (R70), the formats (R71), the opcode map
(R73) and a decoder that is total and names why a word is illegal (R74); after it the encoder, written from the same tables;
and the button bit map (R75). -/

namespace Sys2Proof

/-- The fields of a command word (R70). -/
structure Fields where
  /-- OP, bits 3:0. -/
  op : BitVec 4
  /-- LINE, bits 6:4. -/
  line : BitVec 3
  /-- VAL, bit 7. -/
  val : Bool
  /-- MASK, bits 15:8. -/
  mask : Byte
  deriving DecidableEq, Repr

/-- Field extraction (R70, R72): no field is extended, scaled or reordered. -/
def fieldsOf (w : CmdWord) : Fields where
  op := w.extractLsb' 0 4
  line := w.extractLsb' 4 3
  val := w.getLsbD 7
  mask := w.extractLsb' 8 8

/-- Why a word matches no row of the opcode map (R74). The engine itself does not tell these apart: all are ILLEGAL_CMD. -/
inductive DecodeError where
  /-- OP is one of 0x6 to 0xF. -/
  | reservedOp
  /-- MASK is nonzero in a format that requires 0. -/
  | maskNotZero
  /-- VAL is 1 in a format that requires 0. -/
  | valNotZero
  /-- LINE is nonzero in a format that requires 0. -/
  | lineNotZero
  deriving DecidableEq, Repr

/-- What decoding a word gives. -/
inductive Decoded where
  | instr (i : Instr)
  | illegal (why : DecodeError)
  deriving DecidableEq, Repr

/-- Whether a word was legal (R74). -/
def Decoded.isLegal : Decoded → Bool
  | .instr _ => true
  | .illegal _ => false

/-- Formats Z and C of R71: LINE, VAL and MASK are all 0. -/
def decodeNoFields (f : Fields) (i : Instr) : Decoded :=
  if f.mask ≠ 0 then .illegal .maskNotZero
  else if f.val then .illegal .valNotZero
  else if f.line ≠ 0 then .illegal .lineNotZero
  else .instr i

/-- Format M of R71: LINE and VAL are 0, MASK is the operand. -/
def decodeMask (f : Fields) : Decoded :=
  if f.val then .illegal .valNotZero
  else if f.line ≠ 0 then .illegal .lineNotZero
  else .instr (.classify f.mask)

/-- Format S of R71: MASK is 0, LINE and VAL are the operands. -/
def decodeSetLine (f : Fields) : Decoded :=
  if f.mask ≠ 0 then .illegal .maskNotZero
  else .instr (.setbit f.line.toFin f.val)

/-- The decoder (R73, R74): OP selects the row, then the row's format is checked. -/
def decode (w : CmdWord) : Decoded :=
  match (fieldsOf w).op.toNat with
  | 0x0 => decodeNoFields (fieldsOf w) .nop
  | 0x1 => decodeNoFields (fieldsOf w) .sample
  | 0x2 => decodeNoFields (fieldsOf w) .tick
  | 0x3 => decodeMask (fieldsOf w)
  | 0x4 => decodeSetLine (fieldsOf w)
  | 0x5 => decodeNoFields (fieldsOf w) .configure
  | _ => .illegal .reservedOp

/-- A word from its fields, each at its place: MASK at bit 8, VAL at bit 7, LINE at bit 4, OP at bit 0 (R70). -/
def wordOf (f : Fields) : CmdWord :=
  (f.mask.setWidth 16 <<< 8) ||| ((BitVec.ofBool f.val).setWidth 16 <<< 7) ||| (f.line.setWidth 16 <<< 4) |||
    f.op.setWidth 16

/-- The fields of a command (R71, R73). -/
def fieldsFor : Instr → Fields
  | .nop => { op := 0x0#4, line := 0, val := false, mask := 0 }
  | .sample => { op := 0x1#4, line := 0, val := false, mask := 0 }
  | .tick => { op := 0x2#4, line := 0, val := false, mask := 0 }
  | .classify mask => { op := 0x3#4, line := 0, val := false, mask := mask }
  | .setbit line value => { op := 0x4#4, line := BitVec.ofFin line, val := value, mask := 0 }
  | .configure => { op := 0x5#4, line := 0, val := false, mask := 0 }

/-- The encoder: the one command word of an instruction (R73, R78). -/
def encode (i : Instr) : CmdWord := wordOf (fieldsFor i)

/-- One row of the opcode map (R73): a word matches when `word & mask = match`. -/
structure TableRow where
  mnemonic : String
  matchBits : CmdWord
  maskBits : CmdWord
  deriving DecidableEq, Repr

/-- `(cmd_word & mask) == match` (R73). -/
def TableRow.matchesWord (r : TableRow) (w : CmdWord) : Bool := (w &&& r.maskBits) == r.matchBits

/-- The opcode map of R73, in its order. -/
def opcodeMap : List TableRow :=
  [ ⟨"NOP", 0x0000#16, 0xFFFF#16⟩,
    ⟨"SAMPLE", 0x0001#16, 0xFFFF#16⟩,
    ⟨"TICK", 0x0002#16, 0xFFFF#16⟩,
    ⟨"CLASSIFY", 0x0003#16, 0x00FF#16⟩,
    ⟨"SETBIT", 0x0004#16, 0xFF0F#16⟩,
    ⟨"CONFIGURE", 0x0005#16, 0xFFFF#16⟩ ]

/-- The mnemonic of a command (R73, R79). -/
def Instr.mnemonic : Instr → String
  | .nop => "NOP"
  | .sample => "SAMPLE"
  | .tick => "TICK"
  | .classify _ => "CLASSIFY"
  | .setbit _ _ => "SETBIT"
  | .configure => "CONFIGURE"

/-- The instruction the decoder reads from a word numbered as spec/opcode_table.json numbers it. A command is one 16-bit
word on a 16-bit port (R78), never a sequence of bytes (R54), so the number is the word. -/
def decodeTableWord (nbits w : Nat) : Option Instr :=
  if nbits ≤ 16 ∧ w < 2 ^ 16 then
    match decode (BitVec.ofNat 16 w) with
    | .instr i => some i
    | .illegal _ => none
  else none

/-- The button bit map (R75). -/
def Button.bit : Button → Fin 8
  | .right => 0
  | .ok => 1
  | .up => 2
  | .left => 3
  | .start => 4
  | .down => 5
  | .stop => 6
  | .home => 7

/-- The button that owns a bit position (R75). -/
def Button.ofBit (i : Fin 8) : Button :=
  match i.val with
  | 0 => .right
  | 1 => .ok
  | 2 => .up
  | 3 => .left
  | 4 => .start
  | 5 => .down
  | 6 => .stop
  | _ => .home

/-- The button's constant: its power of two (R75). -/
def Button.constant (b : Button) : Byte := 1#8 <<< b.bit.val

end Sys2Proof
end

