-- ==== Sys2Proof/Machine/State.lean ====
section
/-! DEFINITION. The state of the engine as plain data: the readable registers (spec/10_state.md R20), the hidden sequencer
state (R31, R32), the levels of the output pins and of the input ports (R34), and beside them the configuration (R8) and the
model's own record of what the host and the board do next; the state after reset (R36); the reasons a step can stop. -/

namespace Sys2Proof.Machine

/-- One value per button, in the order of the bit map (R75). -/
structure PerButton (α : Type) where
  right : α
  ok : α
  up : α
  left : α
  start : α
  down : α
  stop : α
  home : α
  deriving DecidableEq, Repr

/-- The registers of R20. STATUS is held by its two fields (R30); its other bits are hard-wired 0
(notes/assumptions/9.md). -/
structure Regs where
  /-- STATUS.BUSY (R30). -/
  busy : Bool
  /-- STATUS.LAST_ERR, two bits (R30). -/
  lastErr : BitVec 2
  /-- PRESSED (R22). -/
  pressed : Byte
  /-- SHORT (R24). -/
  short : Byte
  /-- LONG (R24). -/
  long : Byte
  /-- EXT, the ExtenderBuffer (R28). -/
  ext : Byte
  /-- RAWIN (R23). -/
  rawin : Byte
  /-- DEB, the debounceThreshold (R29). -/
  deb : Nat
  /-- LONGTH, the longPressThreshold (R29). -/
  longth : Nat
  /-- TRACK as stored. In ZERO mode TRACK is not stored (R26) and this field stays 0 (notes/assumptions/10.md). -/
  track : Byte
  /-- TSTART, the PressTimer file (R25). -/
  tstart : PerButton Nat
  deriving DecidableEq, Repr

/-- The values of SEQ, the sequencer phase register (R31). -/
inductive Phase where
  | idle
  | phA
  | phB
  | phC
  | phD
  | commit
  deriving DecidableEq, Repr

/-- The values of CUR_OP (R32). -/
inductive TransferOp where
  | sample
  | tick
  deriving DecidableEq, Repr

/-- SEQ (R31) and the hidden sequencer state (R32). -/
structure Sequencer where
  /-- SEQ. -/
  phase : Phase
  /-- CUR_OP. -/
  curOp : TransferOp
  /-- OB, the out byte captured at acceptance (R107). -/
  ob : Byte
  /-- SH, the raw byte assembled so far. -/
  sh : Byte
  /-- K, the index of the bit being shifted. -/
  k : Fin 8
  /-- HC, which counts engine cycles within a half-period (notes/assumptions/8.md). -/
  hc : Nat
  deriving DecidableEq, Repr

/-- The levels of the output pins (R34). `cmd_ready` and `rd_data` are combinational and are functions of the state
(`cmdReady`, `rdData`). -/
structure Pins where
  sclk : Bool
  latch : Bool
  sdo : Bool
  deriving DecidableEq, Repr

/-- The levels on the input ports (R34), as the last host move left them. They are inputs, not architectural state (R35);
the model keeps them because a step has no other argument (notes/assumptions/5.md). SDI is in `State.sdi`. -/
structure Inputs where
  rst : Bool
  cmdValid : Bool
  cmdWord : CmdWord
  cmdArgA : Nat
  cmdArgB : Nat
  now : Nat
  rdAddr : ReadAddr
  deriving DecidableEq, Repr

/-- The whole state. `cfg` is the configuration, fixed for the machine; `regs`, `sqr` and `pins` are the engine's state
(R20, R31, R32, R34); `inp`, `host`, `sdi` and `sdiDrawn` are the model's own fields for what comes from outside
(R35, R207; notes/assumptions/3.md, 4.md, 5.md). -/
structure State where
  cfg : Config.Params
  regs : Regs
  sqr : Sequencer
  pins : Pins
  inp : Inputs
  /-- The host's coming moves, next first. -/
  host : List HostMove
  /-- The SDI levels at the coming sampling instants, next first; after them the levels are free values. -/
  sdi : List Bool
  /-- How many free SDI levels have been drawn. -/
  sdiDrawn : Nat
  deriving DecidableEq, Repr

/-- The reasons the machine stops with a fault: none. "The engine takes no traps, has no exception vector, saves no state on
an error and never stops" (R200). Safe: a run has no fault to hide behind (notes/assumptions/12.md). -/
inductive Fault where
  deriving DecidableEq, Repr

/-- The reasons a step has no meaning. -/
inductive Refusal where
  /-- Raised by an arm of `exec` whose instruction has no meaning yet; no arm raises it. Safe. -/
  | notModelled (mnemonic : String)
  /-- Raised by `step` when the configuration breaks R10: "A model refuses an illegal configuration: it is not a machine".
  Safe. -/
  | illegalConfiguration
  deriving DecidableEq, Repr

/-- The registers after reset (R36), for any configuration. -/
def Regs.reset (c : Config.Params) : Regs where
  busy := false
  lastErr := 0
  pressed := 0x00#8
  short := 0x00#8
  long := 0x00#8
  ext := c.extReset
  rawin := 0xFF#8
  deb := c.debReset
  longth := c.longReset
  track := 0x00#8
  tstart := ⟨0, 0, 0, 0, 0, 0, 0, 0⟩

/-- The sequencer after reset (R36). -/
def Sequencer.reset : Sequencer where
  phase := .idle
  curOp := .sample
  ob := 0x00#8
  sh := 0x00#8
  k := 0
  hc := 0

/-- The pin levels after reset (R34, R36): SCLK 0, LATCH de-asserted, SDO at its fill level. -/
def Pins.reset (c : Config.Params) : Pins where
  sclk := false
  latch := !c.latchActive
  sdo := c.sdoFill

/-- The input levels of `State.reset`: nothing is offered and every bus is 0. The spec gives inputs no reset value (R34,
R211). DESIGN CHOICE, unsafe: notes/assumptions/5.md. -/
def Inputs.quiet : Inputs where
  rst := false
  cmdValid := false
  cmdWord := 0
  cmdArgA := 0
  cmdArgB := 0
  now := 0
  rdAddr := 0

/-- The machine right after reset (R36, R230) with the parameters of this hardware (R8): no host move is listed, and the
board's levels are all free. -/
def State.reset : State where
  cfg := Config.pnlCe02
  regs := Regs.reset Config.pnlCe02
  sqr := Sequencer.reset
  pins := Pins.reset Config.pnlCe02
  inp := Inputs.quiet
  host := []
  sdi := []
  sdiDrawn := 0

end Sys2Proof.Machine
end

