-- ==== Sys2Proof/Machine/Operands.lean ====
section
/-! DEFINITION. The operand forms of the engine (spec/30_encoding.md R72, R75, R76; spec/40_transport_sampler.md R103, R104):
bytes built bit by bit, one bit of a mask by its button, one line of the ExtenderBuffer, the serial orders, and the values the
commands read from the ports. -/

namespace Sys2Proof.Machine

/-- The byte whose bit j is `f j` (bit 0 least significant, R11). -/
def byteOf (f : Fin 8 → Bool) : Byte :=
  BitVec.ofBool (f 7) ++ (BitVec.ofBool (f 6) ++ (BitVec.ofBool (f 5) ++ (BitVec.ofBool (f 4) ++
    (BitVec.ofBool (f 3) ++ (BitVec.ofBool (f 2) ++ (BitVec.ofBool (f 1) ++ BitVec.ofBool (f 0)))))))

/-- Bit `b.bit` of a ButtonMask: button b's bit (R21, R75). -/
def bitOf (m : Byte) (b : Button) : Bool := m.getLsbD b.bit.val

/-- The ButtonMask whose bit for button b is `f b` (R21, R75). -/
def maskOf (f : Button → Bool) : Byte := byteOf (fun j => f (Button.ofBit j))

/-- One button's entry of a per-button file. -/
def PerButton.get {α : Type} (p : PerButton α) : Button → α
  | .right => p.right
  | .ok => p.ok
  | .up => p.up
  | .left => p.left
  | .start => p.start
  | .down => p.down
  | .stop => p.stop
  | .home => p.home

/-- The per-button file with the entries `f`. -/
def PerButton.ofFn {α : Type} (f : Button → α) : PerButton α where
  right := f .right
  ok := f .ok
  up := f .up
  left := f .left
  start := f .start
  down := f .down
  stop := f .stop
  home := f .home

/-- `EXT[line] <- value`: the other seven bits are unchanged (R161, R76). -/
def setLine (ext : Byte) (line : Fin 8) (value : Bool) : Byte :=
  if value then ext ||| (1#8 <<< line.val) else ext &&& ~~~(1#8 <<< line.val)

/-- The bit position that the k-th bit on a serial line has in its byte (R103, R104). -/
def serialPos (o : Config.BitOrder) (k : Fin 8) : Fin 8 :=
  match o with
  | .msbFirst => ⟨7 - k.val, by omega⟩
  | .lsbFirst => k

/-- `outbit(ob, k)`: the level SDO carries in bit k of PH_B (R103). -/
def outbit (o : Config.BitOrder) (ob : Byte) (k : Fin 8) : Bool := ob.getLsbD (serialPos o k).val

/-- The SDO levels of PH_B, bit 0 first: the SDO trace of a transfer (R103, R110). -/
def sdoTrace (o : Config.BitOrder) (ob : Byte) : List Bool := (List.finRange 8).map (outbit o ob)

/-- `assemble(s[0..7])`: the raw byte of eight sampled levels (R104). -/
def assemble (o : Config.BitOrder) (s : Fin 8 → Bool) : Byte := byteOf (fun j => s (serialPos o j))

/-- The eight levels that assemble to a raw byte, first instant first (R79's `@sdi`, R104). -/
def levelsOf (o : Config.BitOrder) (raw : Byte) : List Bool :=
  (List.finRange 8).map (fun k => raw.getLsbD (serialPos o k).val)

/-- What a TW-bit port carries when `n` is driven on it: the low TW bits, `n[TW-1:0]` (R72, R34). -/
def portValue (c : Config.Params) (n : Nat) : Nat := n % 2 ^ c.tw

/-- CONFIGURE's `deb` operand: `cmd_arg_a[TW-1:0]` as the engine samples it (R70, R72). -/
def debOperand (s : State) : Nat := portValue s.cfg s.inp.cmdArgA

/-- CONFIGURE's `lng` operand: `cmd_arg_b[TW-1:0]` (R70, R72). -/
def lngOperand (s : State) : Nat := portValue s.cfg s.inp.cmdArgB

/-- `now` as a pass reads it: the TW-bit input (R138, R211). -/
def passTime (s : State) : Nat := portValue s.cfg s.inp.now

/-- `sub_TW(a, b) = (a - b) mod 2^TW` (R12, R137). -/
def subTW (c : Config.Params) (a b : Nat) : Nat := (((a : Int) - (b : Int)) % ((2 ^ c.tw : Nat) : Int)).toNat

/-- The SDI level at the n-th sampling instant from here (n = 0 the next): what the board's script lists, and after it a
free value (R110, R114; notes/assumptions/4.md). -/
def sdiLevel (s : State) (n : Nat) : Bool :=
  match s.sdi[n]? with
  | some level => level
  | none => Config.freeSdi (s.sdiDrawn + (n - s.sdi.length))

/-- Pass n sampling instants. -/
def advanceSdi (n : Nat) (s : State) : State :=
  { s with sdi := s.sdi.drop n, sdiDrawn := s.sdiDrawn + (n - s.sdi.length) }

end Sys2Proof.Machine
end

