-- ==== Sys2Proof/Machine/Flags.lean ====
section
/-! DEFINITION. The status fields and the comparisons of the engine: STATUS and the LAST_ERR codes (spec/10_state.md R30, R33;
spec/60_exceptions.md R201), the tracking view of a button (R26, R27, R131), the three bands of a duration
(spec/41_classifier.md R133) and `cmd_ready` (spec/43_control.md R175). The engine has no other flags (R33). -/

namespace Sys2Proof.Machine

/-- LAST_ERR = 0, NONE (R201). -/
def errNone : BitVec 2 := 0#2

/-- LAST_ERR = 1, ILLEGAL_CMD (R201). -/
def errIllegalCmd : BitVec 2 := 1#2

/-- LAST_ERR = 2, CONFIG_REJECTED (R201). -/
def errConfigRejected : BitVec 2 := 2#2

/-- STATUS as it is read: BUSY in bit 0, LAST_ERR in bits 2:1, 0 above (R30, R51). -/
def statusWord (r : Regs) : Nat := (r.lastErr.toNat <<< 1) ||| r.busy.toNat

/-- `tracking(i)` of R131: button b's state is TRACKING (R27). `stored` is its TRACK bit as stored. -/
def isTracking (mode : Config.SentinelMode) (stored : Bool) (start : Nat) : Bool :=
  match mode with
  | .explicit => stored
  | .zero => start != 0

/-- Whether button b is TRACKING (R26, R27). -/
def tracking (s : State) (b : Button) : Bool :=
  isTracking s.cfg.sentinel (bitOf s.regs.track b) (s.regs.tstart.get b)

/-- TRACK as it is read: the stored register in EXPLICIT mode, derived from TSTART in ZERO mode (R26, R51). -/
def trackView (s : State) : Byte :=
  match s.cfg.sentinel with
  | .explicit => s.regs.track
  | .zero => maskOf (fun b => s.regs.tstart.get b != 0)

/-- The three bands of a released press (R133). -/
inductive Band where
  | discarded
  | short
  | long
  deriving DecidableEq, Repr

/-- The band of a duration; every comparison is unsigned on TW bits (R133, R137). -/
def bandOf (deb lng d : Nat) : Band :=
  if d ≤ deb then .discarded
  else if d < lng then .short
  else .long

/-- R172's check: CONFIGURE is accepted exactly when deb < lng, unsigned. -/
def configAccepted (deb lng : Nat) : Bool := decide (deb < lng)

/-- `cmd_ready` = 1 exactly when `rst` = 0 and SEQ = IDLE (R175). -/
def cmdReady (s : State) : Bool := !s.inp.rst && decide (s.sqr.phase = .idle)

end Sys2Proof.Machine
end

