-- ==== Sys2Proof/Machine/Ops.lean ====
section
/-! DEFINITION. The named operations the meanings are built from: recording a command's outcome (which is all the error
handling the engine has, spec/60_exceptions.md R200 to R205), reset (spec/70_reset_and_hazards.md R230), the read port
(spec/20_memory.md R51), and the bus transfer seen as one operation (spec/40_transport_sampler.md R107, R110). -/

namespace Sys2Proof.Machine

/-- `LAST_ERR <- code` (R12, R33): the only error-reporting primitive. It stands where other machines enter and leave an
exception: an erroneous command writes LAST_ERR and nothing else (R204), control goes nowhere, there is nothing to restore
and no return (R205). -/
def setLastErr (code : BitVec 2) (s : State) : State :=
  { s with regs := { s.regs with lastErr := code } }

/-- What an accepted illegal word does (R173): ILLEGAL_CMD, and no other state changes. -/
def illegalWord (s : State) : State := setLastErr errIllegalCmd s

/-- `rst` = 1 at a cycle's ending edge: the whole state of R36 is loaded (R230, R231). What comes from outside, the input
levels and the scripts, is not the engine's to reset (R35). -/
def loadReset (s : State) : State :=
  { s with regs := Regs.reset s.cfg, sqr := Sequencer.reset, pins := Pins.reset s.cfg }

/-- `ReadPort(a)` (R51): the map of the read port. Every address is legal; the unused ones read 0. `zext_TW` of a byte is its
value. -/
def readPort (s : State) (a : ReadAddr) : Nat :=
  match a.toNat with
  | 0x00 => statusWord s.regs
  | 0x01 => s.regs.pressed.toNat
  | 0x02 => s.regs.short.toNat
  | 0x03 => s.regs.long.toNat
  | 0x04 => s.regs.ext.toNat
  | 0x05 => s.regs.rawin.toNat
  | 0x06 => s.regs.deb
  | 0x07 => s.regs.longth
  | 0x08 => (trackView s).toNat
  | 0x10 => s.regs.tstart.right
  | 0x11 => s.regs.tstart.ok
  | 0x12 => s.regs.tstart.up
  | 0x13 => s.regs.tstart.left
  | 0x14 => s.regs.tstart.start
  | 0x15 => s.regs.tstart.down
  | 0x16 => s.regs.tstart.stop
  | 0x17 => s.regs.tstart.home
  | _ => 0

/-- `rd_data`: the read port is combinational, `rd_data` = ReadPort(`rd_addr`) in the same cycle (R51). -/
def rdData (s : State) : Nat := readPort s s.inp.rdAddr

/-- The acceptance of a SAMPLE or TICK (R107, R111, R136): OB <- EXT, CUR_OP, BUSY <- 1, and SEQ to PH_A, which begins
with LATCH asserted and SCLK 0 while SDO keeps its level (R101). SH keeps its old bits until they are overwritten
(DESIGN CHOICE: notes/assumptions/7.md). -/
def beginTransfer (op : TransferOp) (s : State) : State :=
  { s with
    regs := { s.regs with busy := true }
    sqr := { s.sqr with phase := .phA, curOp := op, ob := s.regs.ext, k := 0, hc := 0 }
    pins := { s.pins with latch := s.cfg.latchActive, sclk := false } }

/-- The transfer from PH_A to the COMMIT cycle as one operation (R100, R101, R110): the raw byte is assembled in SH from
eight levels of SDI, and the pins stand as PH_C and COMMIT leave them. It writes no register. The same transfer cycle by
cycle is `transferCycle` of Machine/Clock.lean. -/
def runTransfer (s : State) : State :=
  { advanceSdi 8 s with
    sqr := { s.sqr with
      phase := .commit
      sh := assemble s.cfg.shiftIn (fun k => sdiLevel s k.val)
      k := 0
      hc := 0 }
    pins := { sclk := false, latch := !s.cfg.latchActive, sdo := s.cfg.sdoFill } }

/-- The end of every commit of a SAMPLE or TICK: LAST_ERR <- 0, BUSY <- 0, SEQ to IDLE (R31, R111, R136). -/
def endTransfer (s : State) : State :=
  { s with
    regs := { s.regs with busy := false, lastErr := errNone }
    sqr := { s.sqr with phase := .idle } }

end Sys2Proof.Machine
end

