-- ==== Sys2Proof/Machine/Transport.lean ====
section
/-! DEFINITION. The ButtonSampler: SAMPLE (spec/40_transport_sampler.md R111 to R113). -/

namespace Sys2Proof.Machine

/-- RAWIN <- raw and PRESSED <- ~raw, with raw the byte in SH: the one place where polarity is inverted (R111, R112). -/
def writeSnapshot (s : State) : State :=
  { s with regs := { s.regs with rawin := s.sqr.sh, pressed := ~~~s.sqr.sh } }

/-- The commit of a SAMPLE (R111): the snapshot; not a classification pass. -/
def commitSample (s : State) : State := endTransfer (writeSnapshot s)

/-- SAMPLE (R111), from its acceptance to its commit (R13). -/
def execSample (s : State) : Host.Outcome State Fault Refusal :=
  .next (commitSample (runTransfer (beginTransfer .sample s)))

end Sys2Proof.Machine
end

