-- ==== Sys2Proof/Machine/Classifier.lean ====
section
/-! DEFINITION. The DebounceClassifier: the state machine of one button (spec/41_classifier.md R131 to R133), the
classification pass over all eight (R134), CLASSIFY (R135) and TICK (R136). -/

namespace Sys2Proof.Machine

/-- What a pass writes for one button (R130): TRACK[i] as stored, TSTART[i], SHORT[i], LONG[i]. -/
structure ButtonResult where
  track : Bool
  tstart : Nat
  short : Bool
  long : Bool
  deriving DecidableEq, Repr

/-- `begin(i, t)` of R131, with no event. `stored` is the TRACK bit as stored. -/
def beginTrack (mode : Config.SentinelMode) (stored : Bool) (t : Nat) : ButtonResult :=
  match mode with
  | .explicit => ⟨true, t, false, false⟩
  | .zero => ⟨stored, t, false, false⟩

/-- `end(i)` of R131, with the event of the released press's band (R133). -/
def endTrack (mode : Config.SentinelMode) (stored : Bool) (band : Band) : ButtonResult :=
  match mode with
  | .explicit => ⟨false, 0, decide (band = .short), decide (band = .long)⟩
  | .zero => ⟨stored, 0, decide (band = .short), decide (band = .long)⟩

/-- The transitions of R132 for one button: `stored` its TRACK bit as stored, `start` its TSTART entry, `m` its mask bit, `t`
the pass time. The entry is read before `end(i)` clears it (R134). -/
def buttonStep (c : Config.Params) (deb lng t : Nat) (stored : Bool) (start : Nat) (m : Bool) : ButtonResult :=
  match isTracking c.sentinel stored start, m with
  | false, true => beginTrack c.sentinel stored t
  | true, false => endTrack c.sentinel stored (bandOf deb lng (subTW c t start))
  | true, true => ⟨stored, start, false, false⟩
  | false, false => ⟨stored, start, false, false⟩

/-- What the pass `pass(m, t)` gives for button b, from the state before the pass (R130, R134). -/
def passButton (s : State) (m : Byte) (t : Nat) (b : Button) : ButtonResult :=
  buttonStep s.cfg s.regs.deb s.regs.longth t (bitOf s.regs.track b) (s.regs.tstart.get b) (bitOf m b)

/-- `pass(m, t)` (R134): all eight buttons against one mask and one time; SHORT and LONG are recomputed in full. -/
def classifyPass (m : Byte) (t : Nat) (s : State) : State :=
  { s with regs := { s.regs with
      track := maskOf (fun b => (passButton s m t b).track)
      tstart := PerButton.ofFn (fun b => (passButton s m t b).tstart)
      short := maskOf (fun b => (passButton s m t b).short)
      long := maskOf (fun b => (passButton s m t b).long) } }

/-- Button b's bit of a mask set to a value. -/
def setBitOf (m : Byte) (b : Button) (value : Bool) : Byte := setLine m b.bit value

/-- Button b's entry of a per-button file replaced. -/
def PerButton.put {α : Type} (p : PerButton α) (b : Button) (x : α) : PerButton α :=
  PerButton.ofFn (fun c => if c = b then x else p.get c)

/-- One turn of the loop that R134 writes: button b is visited, reading and writing the running state. -/
def visitButton (m : Byte) (t : Nat) (s : State) (b : Button) : State :=
  { s with regs := { s.regs with
      track := setBitOf s.regs.track b (passButton s m t b).track
      tstart := s.regs.tstart.put b (passButton s m t b).tstart
      short := setBitOf s.regs.short b (passButton s m t b).short
      long := setBitOf s.regs.long b (passButton s m t b).long } }

/-- The pass as the loop R134 writes, visiting the buttons in a given order: S and L start at 0. `classifyPass` is what the
machine runs; that the two agree in every order is R130's claim. -/
def passLoop (order : List Button) (m : Byte) (t : Nat) (s : State) : State :=
  order.foldl (visitButton m t) { s with regs := { s.regs with short := 0, long := 0 } }

/-- CLASSIFY m (R135): a pass over the mask in the word at the `now` of the acceptance cycle (R138); LAST_ERR <- 0. -/
def execClassify (mask : Byte) (s : State) : Host.Outcome State Fault Refusal :=
  .next (setLastErr errNone (classifyPass mask (passTime s) s))

/-- The commit of a TICK (R136): the snapshot, then a pass over ~raw at the `now` of the commit cycle (R138). -/
def commitTick (s : State) : State :=
  endTransfer (classifyPass (~~~s.sqr.sh) (passTime s) (writeSnapshot s))

/-- TICK (R136), from its acceptance to its commit (R13). -/
def execTick (s : State) : Host.Outcome State Fault Refusal :=
  .next (commitTick (runTransfer (beginTransfer .tick s)))

/-- The commit of whichever transfer command CUR_OP names (R32). -/
def commitTransfer (s : State) : State :=
  match s.sqr.curOp with
  | .sample => commitSample s
  | .tick => commitTick s

end Sys2Proof.Machine
end

