-- ==== Sys2Proof/Machine/Control.lean ====
section
/-! DEFINITION. The control commands: NOP (spec/43_control.md R170) and CONFIGURE (R171, R172). -/

namespace Sys2Proof.Machine

/-- NOP (R170): LAST_ERR <- 0. -/
def execNop (s : State) : Host.Outcome State Fault Refusal := .next (setLastErr errNone s)

/-- The re-construction of the classifier by an accepted CONFIGURE (R171): both thresholds, and every track and event is
cleared. In ZERO mode the stored TRACK field is 0 already and TRACK as read becomes 0 with TSTART. -/
def reconfigure (deb lng : Nat) (s : State) : State :=
  { s with regs := { s.regs with
      deb := deb
      longth := lng
      tstart := PerButton.ofFn (fun _ => 0)
      track := 0x00#8
      short := 0x00#8
      long := 0x00#8 } }

/-- CONFIGURE deb, lng (R171), with the operands on the operand buses: accepted when deb < lng, else CONFIG_REJECTED and no
other change (R172). -/
def execConfigure (s : State) : Host.Outcome State Fault Refusal :=
  if configAccepted (debOperand s) (lngOperand s) then
    .next (setLastErr errNone (reconfigure (debOperand s) (lngOperand s) s))
  else
    .next (setLastErr errConfigRejected s)

end Sys2Proof.Machine
end

