-- ==== Sys2Proof/Machine/Extender.lean ====
section
/-! DEFINITION. The ExtenderRegister: SETBIT (spec/42_extender.md R160 to R162). -/

namespace Sys2Proof.Machine

/-- `EXT[line] <- value` in the state. -/
def writeLine (line : Fin 8) (value : Bool) (s : State) : State :=
  { s with regs := { s.regs with ext := setLine s.regs.ext line value } }

/-- SETBIT line, value (R161): one line of EXT and LAST_ERR <- 0; no transfer, no pin moves (R162). -/
def execSetbit (line : Fin 8) (value : Bool) (s : State) : Host.Outcome State Fault Refusal :=
  .next (setLastErr errNone (writeLine line value s))

end Sys2Proof.Machine
end

