-- ==== Sys2Proof/Machine/Dispatch.lean ====
section
/-! DEFINITION. One arm per command of the opcode map (spec/30_encoding.md R73): its effect from acceptance to commit. -/

namespace Sys2Proof.Machine

def exec (i : Instr) (s : State) : Host.Outcome State Fault Refusal :=
  match i with
  | .nop => Sys2Proof.Machine.execNop s
  | .sample => Sys2Proof.Machine.execSample s
  | .tick => Sys2Proof.Machine.execTick s
  | .classify mask => Sys2Proof.Machine.execClassify mask s
  | .setbit line value => Sys2Proof.Machine.execSetbit line value s
  | .configure => Sys2Proof.Machine.execConfigure s

end Sys2Proof.Machine
end

