-- ==== Sys2Proof/Machine/Clock.lean ====
section
/-! DEFINITION. The engine at its own clock: one engine clock cycle with the levels that stand on the input ports. The state
holds the levels and register values DURING a cycle, and `clock` gives those of the next one, so a transfer accepted in
cycle 0 is in COMMIT in cycle 34·HALF + 1 and IDLE again in cycle 34·HALF + 2 (spec/40_transport_sampler.md R101;
spec/43_control.md R175; spec/70_reset_and_hazards.md R230, R231, R243). -/

namespace Sys2Proof.Machine

/-- The last cycle of a half-period (or of a latch hold) of HALF cycles. -/
def lastOfHalf (s : State) : Bool := decide (s.cfg.half ≤ s.sqr.hc + 1)

/-- `wait`: one more cycle of the same half-period, the pins unchanged (R12, R101). -/
def holdHalf (s : State) : State := { s with sqr := { s.sqr with hc := s.sqr.hc + 1 } }

/-- The low half of bit k of PH_B begins: SDO <- outbit(OB, k), SCLK <- 0 (R101, R105). -/
def startOutBit (k : Fin 8) (s : State) : State :=
  { s with
    sqr := { s.sqr with phase := .phB, k := k, hc := 0 }
    pins := { s.pins with sdo := outbit s.cfg.shiftOut s.sqr.ob k, sclk := false } }

/-- The high half of a bit begins: SCLK <- 1 (R101, R105). -/
def raiseSclk (s : State) : State :=
  { s with
    sqr := { s.sqr with hc := 0 }
    pins := { s.pins with sclk := true } }

/-- PH_C begins: SCLK <- 0, LATCH de-asserted, SDO <- SDO_FILL (R101, R102, R106). -/
def startPhC (s : State) : State :=
  { s with
    sqr := { s.sqr with phase := .phC, k := 0, hc := 0 }
    pins := { sclk := false, latch := !s.cfg.latchActive, sdo := s.cfg.sdoFill } }

/-- The low half of bit k of PH_D begins: SCLK <- 0 (R101, R105). -/
def startInBit (k : Fin 8) (s : State) : State :=
  { s with
    sqr := { s.sqr with phase := .phD, k := k, hc := 0 }
    pins := { s.pins with sclk := false } }

/-- s[k] <- SDI, in the last cycle of a low half of PH_D; the bit goes where R104 assembles it. -/
def sampleSdi (s : State) : State :=
  advanceSdi 1
    { s with sqr := { s.sqr with
        sh := setLine s.sqr.sh (serialPos s.cfg.shiftIn s.sqr.k) (sdiLevel s 0) } }

/-- The COMMIT cycle begins: SCLK <- 0 (R101). -/
def startCommit (s : State) : State :=
  { s with
    sqr := { s.sqr with phase := .commit, k := 0, hc := 0 }
    pins := { s.pins with sclk := false } }

/-- One cycle of the transfer in flight (R101); SCLK tells the low half of a bit from its high half (R105). In IDLE there
is no transfer and nothing changes. -/
def transferCycle (s : State) : State :=
  match s.sqr.phase with
  | .idle => s
  | .phA => if lastOfHalf s then startOutBit 0 s else holdHalf s
  | .phB =>
    if lastOfHalf s then
      if s.pins.sclk then
        if s.sqr.k = 7 then startPhC s else startOutBit (s.sqr.k + 1) s
      else raiseSclk s
    else holdHalf s
  | .phC => if lastOfHalf s then startInBit 0 s else holdHalf s
  | .phD =>
    if lastOfHalf s then
      if s.pins.sclk then
        if s.sqr.k = 7 then startCommit s else startInBit (s.sqr.k + 1) s
      else raiseSclk (sampleSdi s)
    else holdHalf s
  | .commit => commitTransfer s

/-- A word is accepted in this cycle (R175): a SAMPLE or TICK begins its transfer, every other word commits now. -/
def acceptWord (w : CmdWord) (s : State) : Host.Outcome State Fault Refusal :=
  match decode w with
  | .illegal _ => .next (illegalWord s)
  | .instr .sample => .next (beginTransfer .sample s)
  | .instr .tick => .next (beginTransfer .tick s)
  | .instr .nop => exec .nop s
  | .instr (.classify mask) => exec (.classify mask) s
  | .instr (.setbit line value) => exec (.setbit line value) s
  | .instr .configure => exec .configure s

/-- One engine clock cycle. Reset overrides everything (R203, R230); a word is accepted exactly when `cmd_valid` and
`cmd_ready` are 1, and a word offered at any other time does nothing (R175). -/
def clock (s : State) : Host.Outcome State Fault Refusal :=
  if s.inp.rst then .next (loadReset s)
  else if cmdReady s then
    if s.inp.cmdValid then acceptWord s.inp.cmdWord s else .next s
  else .next (transferCycle s)

/-- n engine clock cycles with the input levels held. -/
def clocks : Nat → State → Host.Outcome State Fault Refusal
  | 0, s => .next s
  | n + 1, s =>
    match clock s with
    | .next s' => clocks n s'
    | .fault r => .fault r
    | .refused r => .refused r

end Sys2Proof.Machine
end

