-- ==== Sys2Proof/Machine/HostPort.lean ====
section
/-! DEFINITION. The host's side of the ports (spec/60_exceptions.md R207; spec/43_control.md R175): how each host move drives
the input ports and what the engine then does in the step; and the assembler notation of spec/30_encoding.md R79 as host
moves. -/

namespace Sys2Proof.Machine

/-- Any levels on `rst` and on the command port. -/
def drivePorts (rst valid : Bool) (w : CmdWord) (a b : Nat) (s : State) : State :=
  { s with inp := { s.inp with rst := rst, cmdValid := valid, cmdWord := w, cmdArgA := a, cmdArgB := b } }

/-- `cmd_valid` = 1 with this word and these operand buses, `rst` = 0. -/
def driveCommand (w : CmdWord) (a b : Nat) (s : State) : State := drivePorts false true w a b s

/-- `cmd_valid` = 0 and `rst` = 0. -/
def driveIdle (s : State) : State := { s with inp := { s.inp with rst := false, cmdValid := false } }

/-- `rst` = 1; nothing is offered. -/
def driveReset (s : State) : State := { s with inp := { s.inp with rst := true, cmdValid := false } }

/-- The rest of the host's script. -/
def withHost (rest : List HostMove) (s : State) : State := { s with host := rest }

/-- The state in which a command is accepted: its move is taken from the script and the ports carry it. -/
def offered (w : CmdWord) (a b : Nat) (rest : List HostMove) (s : State) : State :=
  withHost rest (driveCommand w a b s)

/-- An accepted word run to its commit in one step (R13): the decoded command's meaning, or ILLEGAL_CMD (R173). -/
def issue (w : CmdWord) (s : State) : Host.Outcome State Fault Refusal :=
  match decode w with
  | .instr i => exec i s
  | .illegal _ => .next (illegalWord s)

/-- One step of the host and the engine. A command waits, a cycle a step, until `cmd_ready` is 1, and the step that accepts
it runs it to its commit (R175, R13). With no move listed the host offers nothing and a cycle passes (R215). Driving `now`,
SDI or the read address takes no cycle. -/
def hostStep (s : State) : Host.Outcome State Fault Refusal :=
  match s.host with
  | [] => clock (driveIdle s)
  | .command w a b :: rest =>
    if cmdReady (driveCommand w a b s) then issue w (offered w a b rest s) else clock (driveCommand w a b s)
  | .offer w a b :: rest => clock (offered w a b rest s)
  | .cycle rst valid w a b :: rest => clock (withHost rest (drivePorts rst valid w a b s))
  | .idle :: rest => clock (withHost rest (driveIdle s))
  | .rst :: rest => clock (withHost rest (driveReset s))
  | .now t :: rest => .next { s with host := rest, inp := { s.inp with now := t } }
  | .sdi levels :: rest => .next { s with host := rest, sdi := levels }
  | .read a :: rest => .next { s with host := rest, inp := { s.inp with rdAddr := a } }

/-- The read address of a register (R51). -/
def regAddr : RegName → ReadAddr
  | .status => 0x00#5
  | .pressed => 0x01#5
  | .short => 0x02#5
  | .long => 0x03#5
  | .ext => 0x04#5
  | .rawin => 0x05#5
  | .deb => 0x06#5
  | .longth => 0x07#5
  | .track => 0x08#5
  | .tstart i => 0x10#5 + BitVec.ofNat 5 i

/-- The mask a `<mask>` operand writes (R79, R75). -/
def maskValue : MaskArg → Byte
  | .number n => BitVec.ofNat 8 n
  | .buttons bs => bs.foldr (fun b m => b.constant ||| m) 0

/-- A command as a host move; only CONFIGURE gives the operand buses a meaning (R70). -/
def commandMove (i : Instr) (a b : Nat) : HostMove := .command (encode i) a b

/-- The line number of a well-formed `<line>` operand. -/
def lineNumber (n : Nat) : Fin 8 := ⟨n % 8, by omega⟩

/-- The host move of a well-formed assembler line (R79); `@sdi` needs the serial order (R104). -/
def assembleLine (c : Config.Params) : Asm → HostMove
  | .nop => commandMove .nop 0 0
  | .sample => commandMove .sample 0 0
  | .tick => commandMove .tick 0 0
  | .classify mask => commandMove (.classify (maskValue mask)) 0 0
  | .setbit line value => commandMove (.setbit (lineNumber line) (decide (value = 1))) 0 0
  | .configure deb lng => commandMove .configure deb lng
  | .lineOn line => commandMove (.setbit (lineNumber line) true) 0 0
  | .lineOff line => commandMove (.setbit (lineNumber line) false) 0 0
  | .configureDefault => commandMove .configure 50 2000
  | .atNow n => .now n
  | .atSdi b => .sdi (levelsOf c.shiftIn (BitVec.ofNat 8 b))
  | .readReg r => .read (regAddr r)
  | .atRst => .rst
  | .word w => .command (BitVec.ofNat 16 w) 0 0

end Sys2Proof.Machine
end

