-- ==== Sys2Proof/Machine/Step.lean ====
section
/-! DEFINITION. The one step of the machine, and how a command word is placed where the next step takes it. -/

namespace Sys2Proof.Machine

/-- One step: a machine with an illegal configuration is refused (R10); any other takes the host's next move. -/
def step (s : State) : Host.Outcome State Fault Refusal :=
  if s.cfg.legal then hostStep s else .refused .illegalConfiguration

/-- `s` with the command word `w` offered next, with the operand buses as they stand: the engine fetches nothing (R31), so a
program comes from the host's script. The command port must be free for the very next step to take the word, so a transfer
in flight is dropped (notes/assumptions/17.md). -/
def State.withFetchWord (s : State) (_nbits w : Nat) : State :=
  { s with
    regs := { s.regs with busy := false }
    sqr := { s.sqr with phase := .idle }
    host := .command (BitVec.ofNat 16 w) s.inp.cmdArgA s.inp.cmdArgB :: s.host }

end Sys2Proof.Machine
end

