-- ==== Sys2Proof/Safety.lean ====
section
/-! DEFINITION. The terms claims use: the invariant of the engine (spec/10_state.md R26, R29, R30, R36; spec/40_transport_sampler.md
R105 to R107, R112; spec/41_classifier.md R139), reachable states, what a transfer's waveform is (R101), and what a step leaves
alone. -/

namespace Sys2Proof.Machine

/-- PRESSED = ~RAWIN (R112, R36). -/
def SnapshotInv (s : State) : Prop := s.regs.pressed = ~~~s.regs.rawin

/-- DEB < LONGTH (R29). -/
def ThresholdInv (s : State) : Prop := s.regs.deb < s.regs.longth

/-- Every time register is a TW-bit value (R20, R25, R29). -/
def WidthInv (s : State) : Prop :=
  s.regs.deb < 2 ^ s.cfg.tw ∧ s.regs.longth < 2 ^ s.cfg.tw ∧ ∀ b : Button, s.regs.tstart.get b < 2 ^ s.cfg.tw

/-- EXPLICIT mode: TRACK[i] = 0 ⇒ TSTART[i] = 0; ZERO mode: TRACK is not stored (R26), so the field stays 0
(notes/assumptions/10.md). -/
def TrackInv (s : State) : Prop :=
  match s.cfg.sentinel with
  | .explicit => ∀ b : Button, bitOf s.regs.track b = false → s.regs.tstart.get b = 0
  | .zero => s.regs.track = 0

/-- SHORT & LONG = 0 (R36, R139). -/
def EventInv (s : State) : Prop := s.regs.short &&& s.regs.long = 0

/-- LAST_ERR is 0, 1 or 2, and BUSY is 1 exactly outside IDLE (R30, R31, R175). -/
def StatusInv (s : State) : Prop :=
  s.regs.lastErr ≠ 3#2 ∧ s.regs.busy = decide (s.sqr.phase ≠ .idle)

/-- OB = EXT while a transfer is in flight (R107). -/
def OutByteInv (s : State) : Prop := s.sqr.phase ≠ .idle → s.sqr.ob = s.regs.ext

/-- The pin levels that each phase allows (R101, R102, R105, R106). -/
def PinInv (s : State) : Prop :=
  match s.sqr.phase with
  | .idle => s.pins = Pins.reset s.cfg
  | .phA => s.pins = { sclk := false, latch := s.cfg.latchActive, sdo := s.cfg.sdoFill }
  | .phB => s.pins.latch = s.cfg.latchActive ∧ s.pins.sdo = outbit s.cfg.shiftOut s.sqr.ob s.sqr.k
  | .phC => s.pins = Pins.reset s.cfg
  | .phD => s.pins.latch = !s.cfg.latchActive ∧ s.pins.sdo = s.cfg.sdoFill
  | .commit => s.pins = Pins.reset s.cfg

/-- HC counts within one half-period; K is nonzero only while bits are shifted (R32 names them; when they are cleared is
the model's choice: notes/assumptions/7.md). -/
def CounterInv (s : State) : Prop :=
  match s.sqr.phase with
  | .idle => s.sqr.hc = 0 ∧ s.sqr.k = 0
  | .phA => s.sqr.hc < s.cfg.half ∧ s.sqr.k = 0
  | .phB => s.sqr.hc < s.cfg.half
  | .phC => s.sqr.hc < s.cfg.half ∧ s.sqr.k = 0
  | .phD => s.sqr.hc < s.cfg.half
  | .commit => s.sqr.hc = 0 ∧ s.sqr.k = 0

/-- The invariant of the engine. -/
def EngineInv (s : State) : Prop :=
  SnapshotInv s ∧ ThresholdInv s ∧ WidthInv s ∧ TrackInv s ∧ EventInv s ∧ StatusInv s ∧ OutByteInv s ∧ PinInv s ∧ CounterInv s

/-- The states a run from reset can be in: any configuration that is legal, then any host moves and any board levels. The
inputs come from outside, so they may be replaced between steps. -/
inductive Reachable : State → Prop
  | reset (c : Config.Params) (inp : Inputs) (host : List HostMove) (sdi : List Bool) (n : Nat) (h : c.legal = true) :
      Reachable
        { cfg := c, regs := Regs.reset c, sqr := Sequencer.reset, pins := Pins.reset c, inp := inp, host := host, sdi := sdi,
          sdiDrawn := n }
  | step (s t : State) (hs : Reachable s) (h : Sys2Proof.Machine.step s = .next t) : Reachable t
  | input (s : State) (inp : Inputs) (host : List HostMove) (sdi : List Bool) (hs : Reachable s) :
      Reachable { s with inp := inp, host := host, sdi := sdi }

/-- The moves that put exactly the levels `inp` on the input ports for one clock cycle (R34, R207). -/
def portMoves (inp : Inputs) : List HostMove :=
  [.now inp.now, .read inp.rdAddr, .cycle inp.rst inp.cmdValid inp.cmdWord inp.cmdArgA inp.cmdArgB]

/-- The host move asserts `rst` (R230). -/
def resetMove : HostMove → Bool
  | .rst => true
  | .cycle rst _ _ _ _ => rst
  | .command _ _ _ | .offer _ _ _ | .idle | .now _ | .sdi _ | .read _ => false

/-- The host move offers the word `w` with the operand buses `a` and `b`, `rst` = 0 (R175). -/
def OffersWord (m : HostMove) (w : CmdWord) (a b : Nat) : Prop :=
  m = .command w a b ∨ m = .offer w a b ∨ m = .cycle false true w a b

/-- Every button is IDLE (R27). -/
def noTracks (s : State) : Prop := ∀ b : Button, tracking s b = false

/-- A safe step: it answers a next state. -/
def SafeStep (s : State) : Prop := ∃ t, step s = .next t

/-- What comes from outside the engine, and the configuration, are as before; no SDI level was taken. -/
def SameOutside (s t : State) : Prop :=
  t.cfg = s.cfg ∧ t.inp = s.inp ∧ t.host = s.host ∧ t.sdi = s.sdi ∧ t.sdiDrawn = s.sdiDrawn

/-- The sequencer and the pins are as before: no transfer ran and no pin moved. -/
def SameBus (s t : State) : Prop := t.sqr = s.sqr ∧ t.pins = s.pins

/-- The host duty of R211 and R242 at a release: `now` has not gone back past the press. A premise, not a check. -/
def MonotonicSince (start t : Nat) : Prop := start ≤ t

/-- The levels a transfer cycle shows (R101). -/
structure CycleShape where
  phase : Phase
  latch : Bool
  sclk : Bool
  sdo : Bool
  deriving DecidableEq, Repr

/-- The shape of a state. -/
def shapeOf (s : State) : CycleShape := ⟨s.sqr.phase, s.pins.latch, s.pins.sclk, s.pins.sdo⟩

end Sys2Proof.Machine
end

