-- ==== Sys2Proof/Certificates/Slice0/Obligations.lean ====
section
/-! DEFINITION. The statements for the provers, one `def Obligations.<Name> : Prop` each; OBLIGATIONS.json lists them with the rules
of spec/ they formalise. -/

open Sys2Proof Sys2Proof.Machine

/-! ### Encoding (spec/30_encoding.md) -/

/-- Words written out from the field layout of R70 and the vectors E1 to E23 of spec/95_test_vectors.md decode to the commands
they stand for, and the illegal ones are refused. -/
def Obligations.WordsOfTheSpecDecode : Prop :=
  decode 0b0000000000000000#16 = .instr .nop ∧
  decode 0b0000000000000001#16 = .instr .sample ∧
  decode 0b0000000000000010#16 = .instr .tick ∧
  decode 0b0000011000000011#16 = .instr (.classify 0x06#8) ∧
  decode 0b0000000010110100#16 = .instr (.setbit 3 true) ∧
  decode 0b0000000001100100#16 = .instr (.setbit 6 false) ∧
  decode 0b0000000000000101#16 = .instr .configure ∧
  (decode 0x0006#16).isLegal = false ∧
  (decode 0x0080#16).isLegal = false ∧
  (decode 0x0102#16).isLegal = false ∧
  (decode 0x0013#16).isLegal = false

/-- Decoding an encoded command gives it back, for every command and every operand. -/
def Obligations.DecodeOfEncodeIsTheCommand : Prop :=
  ∀ i : Instr, decode (encode i) = .instr i

/-- Each legal word has one meaning and each command one word: a word that decodes to a command is that command's word. -/
def Obligations.EncodeOfDecodeIsTheWord : Prop :=
  ∀ (w : CmdWord) (i : Instr), decode w = .instr i → encode i = w

/-- The opcode map of R73, row by row: exactly the words that match a row decode, to a command of that row's mnemonic, and no
word matches two rows. -/
def Obligations.DecoderFollowsTheOpcodeMap : Prop :=
  opcodeMap =
    [ ⟨"NOP", 0x0000#16, 0xFFFF#16⟩, ⟨"SAMPLE", 0x0001#16, 0xFFFF#16⟩, ⟨"TICK", 0x0002#16, 0xFFFF#16⟩,
      ⟨"CLASSIFY", 0x0003#16, 0x00FF#16⟩, ⟨"SETBIT", 0x0004#16, 0xFF0F#16⟩, ⟨"CONFIGURE", 0x0005#16, 0xFFFF#16⟩ ] ∧
  (∀ (w : CmdWord) (i : Instr), decode w = .instr i →
    (opcodeMap.filter (fun r => r.matchesWord w)).map (fun r => r.mnemonic) = [i.mnemonic]) ∧
  (∀ w : CmdWord, (decode w).isLegal = false → opcodeMap.filter (fun r => r.matchesWord w) = [])

/-- The illegal words are those with a reserved OP or a nonzero bit in a field their format requires to be 0 (R74). -/
def Obligations.IllegalExactlyByReservedBits : Prop :=
  ∀ w : CmdWord, (decode w).isLegal = false ↔
    (6 ≤ (w.extractLsb' 0 4).toNat ∨
     ((w.extractLsb' 0 4).toNat ≠ 3 ∧ w.extractLsb' 8 8 ≠ 0) ∨
     ((w.extractLsb' 0 4).toNat ≠ 4 ∧ (w.extractLsb' 4 3 ≠ 0 ∨ w.getLsbD 7 = true)))

/-- Of the 65,536 words, 276 are legal: there is a list of 276 words without repeats that holds exactly the legal ones. -/
def Obligations.ExactlyTwoHundredSeventySixLegalWords : Prop :=
  ∃ words : List CmdWord, words.Nodup ∧ words.length = 276 ∧
    ∀ w : CmdWord, w ∈ words ↔ (decode w).isLegal = true

/-- The button bit map of R75: the eight constants, bit positions and buttons are in one-to-one correspondence, and a button's bit
of a mask is the one its constant selects. -/
def Obligations.ButtonMapIsTheSpecs : Prop :=
  Button.right.constant = 0x01#8 ∧ Button.ok.constant = 0x02#8 ∧ Button.up.constant = 0x04#8 ∧
  Button.left.constant = 0x08#8 ∧ Button.start.constant = 0x10#8 ∧ Button.down.constant = 0x20#8 ∧
  Button.stop.constant = 0x40#8 ∧ Button.home.constant = 0x80#8 ∧
  (∀ b : Button, Button.ofBit b.bit = b) ∧ (∀ i : Fin 8, (Button.ofBit i).bit = i) ∧
  (∀ (m : Byte) (b : Button), bitOf m b = m.getLsbD b.bit.val ∧ (bitOf m b = true ↔ m &&& b.constant ≠ 0))

/-- R79: a well-formed assembler line is the host move it writes. A command's word decodes to the command with the operands
written, with CONFIGURE's on the buses; the pseudo-instructions expand as R79 says; a directive drives `now`, the eight SDI
levels that assemble to the byte, the read address of the register, `rst`, or a raw word with zero operand buses. The moves
themselves are the model's form (log entry 3). -/
def Obligations.AssemblerLinesAreTheirMoves : Prop :=
  ∀ c : Config.Params,
    (∀ i a, (i = .nop ∧ a = .nop) ∨ (i = .sample ∧ a = .sample) ∨ (i = .tick ∧ a = .tick) →
      ∃ w, assembleLine c a = .command w 0 0 ∧ decode w = .instr i) ∧
    (∀ n : Nat, (Asm.classify (.number n)).wellFormed c.tw = true →
      ∃ w, assembleLine c (.classify (.number n)) = .command w 0 0 ∧ ∃ m, decode w = .instr (.classify m) ∧ m.toNat = n) ∧
    (∀ (bs : List Button), ∃ w, assembleLine c (.classify (.buttons bs)) = .command w 0 0 ∧
      ∃ m, decode w = .instr (.classify m) ∧ ∀ b : Button, bitOf m b = true ↔ b ∈ bs) ∧
    (∀ line value : Nat, (Asm.setbit line value).wellFormed c.tw = true →
      ∃ w l, assembleLine c (.setbit line value) = .command w 0 0 ∧ decode w = .instr (.setbit l (decide (value = 1))) ∧
        l.val = line) ∧
    (∀ deb lng : Nat, (Asm.configure deb lng).wellFormed c.tw = true →
      ∃ w a b, assembleLine c (.configure deb lng) = .command w a b ∧ decode w = .instr .configure ∧
        portValue c a = deb ∧ portValue c b = lng) ∧
    (∀ line : Nat, assembleLine c (.lineOn line) = assembleLine c (.setbit line 1) ∧
      assembleLine c (.lineOff line) = assembleLine c (.setbit line 0)) ∧
    assembleLine c .configureDefault = assembleLine c (.configure 50 2000) ∧
    (∀ n : Nat, (Asm.atNow n).wellFormed c.tw = true → ∃ t, assembleLine c (.atNow n) = .now t ∧ portValue c t = n) ∧
    (∀ n : Nat, (Asm.atSdi n).wellFormed c.tw = true →
      ∃ levels : List Bool, assembleLine c (.atSdi n) = .sdi levels ∧ levels.length = 8 ∧
        (assemble c.shiftIn (fun k => levels.getD k.val false)).toNat = n) ∧
    (∀ i : Nat, (Asm.readReg (.tstart i)).wellFormed c.tw = true →
      ∃ addr, assembleLine c (.readReg (.tstart i)) = .read addr ∧ addr.toNat = 0x10 + i) ∧
    assembleLine c (.readReg .status) = .read 0x00#5 ∧ assembleLine c (.readReg .pressed) = .read 0x01#5 ∧
    assembleLine c (.readReg .short) = .read 0x02#5 ∧ assembleLine c (.readReg .long) = .read 0x03#5 ∧
    assembleLine c (.readReg .ext) = .read 0x04#5 ∧ assembleLine c (.readReg .rawin) = .read 0x05#5 ∧
    assembleLine c (.readReg .deb) = .read 0x06#5 ∧ assembleLine c (.readReg .longth) = .read 0x07#5 ∧
    assembleLine c (.readReg .track) = .read 0x08#5 ∧
    assembleLine c .atRst = .rst ∧
    (∀ n : Nat, (Asm.word n).wellFormed c.tw = true → ∃ w, assembleLine c (.word n) = .command w 0 0 ∧ w.toNat = n)

/-- The serial orders of R103 and R104: which bit of the out byte SDO carries in bit k of PH_B, and where the k-th sampled level
lands in the raw byte; the levels `@sdi` lists for a byte (R79) assemble to that byte. -/
def Obligations.SerialOrders : Prop :=
  (∀ (ob : Byte) (k : Fin 8),
    outbit .msbFirst ob k = ob.getLsbD (7 - k.val) ∧ outbit .lsbFirst ob k = ob.getLsbD k.val) ∧
  (∀ (s : Fin 8 → Bool) (k : Fin 8),
    (assemble .msbFirst s).getLsbD (7 - k.val) = s k ∧ (assemble .lsbFirst s).getLsbD k.val = s k) ∧
  (∀ (o : Config.BitOrder) (raw : Byte), (levelsOf o raw).length = 8 ∧
    assemble o (fun k => (levelsOf o raw).getD k.val false) = raw)

/-! ### The step -/

/-- A step runs the decoded command: when the host's next move offers a word that decodes to i and the port is free, the step
is `exec i` at the state with the word and its operand buses on the ports and the move taken from the script; with a word that
decodes to no command, LAST_ERR is 1 there and nothing else changes. The script is the model's form of the host (log entry 3). -/
def Obligations.StepRunsTheDecodedCommand : Prop :=
  ∀ (s : State) (w : CmdWord) (a b : Nat) (rest : List HostMove),
    s.cfg.legal = true → s.sqr.phase = .idle → s.host = .command w a b :: rest →
    (∀ i : Instr, decode w = .instr i → step s = exec i (offered w a b rest s)) ∧
    ((decode w).isLegal = false →
      step s = .next { offered w a b rest s with regs := { s.regs with lastErr := 1#2 } })

/-- What each other move of the host does in a step: `.cycle`, `.idle`, `.rst`, `.offer` and an empty script drive the ports for
one clock cycle, `.cycle` with whatever levels the host likes; `.now`, `.sdi` and `.read` drive an input and no cycle passes. The moves are the model's form of R207's interactions (log
entries 2 and 3). -/
def Obligations.HostMovesDriveThePorts : Prop :=
  ∀ (s : State) (rest : List HostMove), s.cfg.legal = true →
    (s.host = [] → step s = clock { s with inp := { s.inp with rst := false, cmdValid := false } }) ∧
    (s.host = .idle :: rest → step s = clock { s with host := rest, inp := { s.inp with rst := false, cmdValid := false } }) ∧
    (s.host = .rst :: rest → step s = clock { s with host := rest, inp := { s.inp with rst := true, cmdValid := false } }) ∧
    (∀ w a b, s.host = .offer w a b :: rest →
      step s = clock { s with
        host := rest
        inp := { s.inp with rst := false, cmdValid := true, cmdWord := w, cmdArgA := a, cmdArgB := b } }) ∧
    (∀ r v w a b, s.host = .cycle r v w a b :: rest →
      step s = clock { s with
        host := rest
        inp := { s.inp with rst := r, cmdValid := v, cmdWord := w, cmdArgA := a, cmdArgB := b } }) ∧
    (∀ t, s.host = .now t :: rest → step s = .next { s with host := rest, inp := { s.inp with now := t } }) ∧
    (∀ levels, s.host = .sdi levels :: rest → step s = .next { s with host := rest, sdi := levels }) ∧
    (∀ addr, s.host = .read addr :: rest → step s = .next { s with host := rest, inp := { s.inp with rdAddr := addr } })

/-- R207: the host may put any levels on its ports in any cycle. Whatever levels `inp` it wants on `rst`, the command port, `now`
and the read address, three moves give a clock cycle with exactly those levels. The moves are the model's form of the host (log
entries 2 and 3). -/
def Obligations.HostCanDriveEveryPortLevel : Prop :=
  ∀ (s : State) (inp : Inputs) (rest : List HostMove), s.cfg.legal = true →
    ∃ u v, step { s with host := portMoves inp ++ rest } = .next u ∧ step u = .next v ∧
      step v = clock { s with inp := inp, host := rest }

/-- R230, R203: a word offered in a cycle with `rst` = 1 is not taken. The step loads the reset state, whatever the word, in IDLE
as in mid-transfer. The move is the model's form of the host (log entry 3). -/
def Obligations.WordOfferedUnderResetIsNotTaken : Prop :=
  ∀ (s : State) (v : Bool) (w : CmdWord) (a b : Nat) (rest : List HostMove), s.cfg.legal = true →
    s.host = .cycle true v w a b :: rest →
    ∃ t, step s = .next t ∧
      (∀ c : Button, t.regs.tstart.get c = 0) ∧ t.regs.track = 0 ∧ t.regs.deb = s.cfg.debReset ∧
      t.regs.longth = s.cfg.longReset ∧ t.regs.short = 0 ∧ t.regs.long = 0 ∧ t.regs.pressed = 0 ∧
      t.regs.rawin = 0xFF#8 ∧ t.regs.ext = s.cfg.extReset ∧ t.regs.busy = false ∧ t.regs.lastErr = 0#2 ∧
      t.sqr = { phase := .idle, curOp := .sample, ob := 0, sh := 0, k := 0, hc := 0 } ∧
      t.pins.sclk = false ∧ t.pins.latch = !s.cfg.latchActive ∧ t.pins.sdo = s.cfg.sdoFill ∧
      t.cfg = s.cfg ∧ t.host = rest ∧ t.sdi = s.sdi ∧ t.sdiDrawn = s.sdiDrawn

/-- The word `withFetchWord` places is the one the very next step takes, in every state of a legal configuration. The placing is
the model's (log entries 3 and 17): the engine fetches nothing. -/
def Obligations.FetchedWordRunsNext : Prop :=
  ∀ (s : State) (w : Nat) (i : Instr), s.cfg.legal = true → decodeTableWord 16 w = some i →
    ∃ s', step (s.withFetchWord 16 w) = exec i s' ∧ s'.cfg = s.cfg ∧ s'.regs = { s.regs with busy := false } ∧
      s'.sqr = { s.sqr with phase := .idle } ∧ s'.pins = s.pins ∧ s'.host = s.host ∧ s'.sdi = s.sdi ∧ s'.sdiDrawn = s.sdiDrawn ∧
      s'.inp.cmdArgA = s.inp.cmdArgA ∧ s'.inp.cmdArgB = s.inp.cmdArgB ∧ s'.inp.now = s.inp.now

/-- An illegal word is accepted, commits in one cycle and writes LAST_ERR = 1 and nothing else; it starts no transfer (R173).
Said of the clock cycle in which the word is accepted, and of the word run as one step. -/
def Obligations.IllegalWordOnlySetsLastErr : Prop :=
  ∀ (s : State) (w : CmdWord), (∀ r ∈ opcodeMap, r.matchesWord w = false) →
    issue w s = .next { s with regs := { s.regs with lastErr := 1#2 } } ∧
    (s.inp.rst = false → s.inp.cmdValid = true → s.inp.cmdWord = w → s.sqr.phase = .idle →
      ∃ t, clock s = .next t ∧ t.regs = { s.regs with lastErr := 1#2 } ∧ SameBus s t ∧ SameOutside s t)

/-- R10: a machine whose configuration breaks one of the three conditions is refused, by name, and so is one whose TW is none of
R8's legal values (an integer of at least 12; log entry 11); a legal one never stops, whatever the host and the board do (R200). -/
def Obligations.OnlyIllegalConfigurationsStop : Prop :=
  ∀ s : State,
    ((s.cfg.debReset < s.cfg.longReset ∧ s.cfg.longReset < 2 ^ s.cfg.tw ∧ 1 ≤ s.cfg.half ∧ 12 ≤ s.cfg.tw) →
      ∃ t, step s = .next t) ∧
    (¬(s.cfg.debReset < s.cfg.longReset ∧ s.cfg.longReset < 2 ^ s.cfg.tw ∧ 1 ≤ s.cfg.half ∧ 12 ≤ s.cfg.tw) →
      step s = .refused .illegalConfiguration)

/-- Every command of the opcode map completes, in every state. -/
def Obligations.EveryCommandCompletes : Prop :=
  ∀ (i : Instr) (s : State), ∃ t, exec i s = .next t

/-- The handshake of R175: `cmd_ready` = 1 exactly when `rst` = 0 and SEQ = IDLE; an accepted SAMPLE or TICK sets SEQ to PH_A,
every other word commits in the acceptance cycle and leaves SEQ at IDLE; the command port is ignored in every other cycle: with
no word offered nothing changes, a transfer keeps `cmd_ready` = 0 until its commit, and while `cmd_ready` = 0 the engine does the
same whatever is offered. -/
def Obligations.CommandHandshake : Prop :=
  ∀ s : State,
    (cmdReady s = true ↔ s.inp.rst = false ∧ s.sqr.phase = .idle) ∧
    (s.inp.rst = false → s.inp.cmdValid = true → cmdReady s = true →
      ∃ t, clock s = .next t ∧
        ((decode s.inp.cmdWord = .instr .sample ∨ decode s.inp.cmdWord = .instr .tick) →
          t.sqr.phase = .phA ∧ cmdReady t = false) ∧
        (∀ i, decode s.inp.cmdWord = .instr i → i ≠ .sample → i ≠ .tick →
          exec i s = .next t ∧ t.sqr = s.sqr ∧ cmdReady t = true) ∧
        ((decode s.inp.cmdWord).isLegal = false → t.sqr = s.sqr ∧ cmdReady t = true)) ∧
    (cmdReady s = true → s.inp.cmdValid = false → clock s = .next s) ∧
    (s.inp.rst = false → s.sqr.phase ≠ .idle → ∃ t, clock s = .next t ∧ (cmdReady t = true ↔ s.sqr.phase = .commit)) ∧
    (cmdReady s = false → ∀ (v : Bool) (w : CmdWord) (a b : Nat),
      ∃ t, clock s = .next t ∧
        clock { s with inp := { s.inp with cmdValid := v, cmdWord := w, cmdArgA := a, cmdArgB := b } } =
          .next { t with inp := { t.inp with cmdValid := v, cmdWord := w, cmdArgA := a, cmdArgB := b } })

/-- A command offered while a transfer is in flight waits: the step is one clock cycle of the transfer, and the move stays in
the host's script (R175, R238; the waiting move is the model's form: log entry 16). -/
def Obligations.CommandWaitsForReady : Prop :=
  ∀ (s : State) (w : CmdWord) (a b : Nat) (rest : List HostMove),
    s.cfg.legal = true → s.sqr.phase ≠ .idle → s.host = .command w a b :: rest →
    ∃ t, step s = .next t ∧ step s = clock (driveCommand w a b s) ∧ t.host = .command w a b :: rest ∧
      t.regs.ext = s.regs.ext ∧ t.regs.deb = s.regs.deb ∧ t.regs.longth = s.regs.longth

/-! ### The commands -/

/-- NOP (R170): the word 0x0000 and no other; LAST_ERR <- 0 and no other state changes. -/
def Obligations.NopOnlyClearsLastErr : Prop :=
  encode .nop = 0x0000#16 ∧ (∀ w : CmdWord, decode w = .instr .nop ↔ w = 0x0000#16) ∧
  ∀ s : State, exec .nop s = .next { s with regs := { s.regs with lastErr := 0#2 } }

/-- SETBIT (R161): its words; line `line` of EXT takes the value, the other seven lines and everything else but LAST_ERR <- 0
are unchanged; no transfer runs and no pin moves. -/
def Obligations.SetbitWritesOneLine : Prop :=
  (∀ (line : Fin 8) (value : Bool),
    encode (.setbit line value) =
      (0x0004#16 ||| (BitVec.ofNat 16 line.val <<< 4)) ||| (BitVec.ofNat 16 value.toNat <<< 7) ∧
    decode (encode (.setbit line value)) = .instr (.setbit line value)) ∧
  ∀ (line : Fin 8) (value : Bool) (s : State),
    ∃ t, exec (.setbit line value) s = .next t ∧
      t.regs.ext.getLsbD line.val = value ∧
      (∀ j : Fin 8, j ≠ line → t.regs.ext.getLsbD j.val = s.regs.ext.getLsbD j.val) ∧
      t.regs = { s.regs with ext := t.regs.ext, lastErr := 0#2 } ∧ SameBus s t ∧ SameOutside s t

/-- SAMPLE (R111 with R104, R107, R112): the byte of eight SDI levels becomes RAWIN, level k at bit 7 - k or k by
SHIFT_IN_ORDER; PRESSED is its complement; LAST_ERR <- 0; OB took EXT; nothing else of the registers changes, the
classifier's least of all. CUR_OP and the pins are said as the commit leaves them (log entry 22). -/
def Obligations.SampleTakesOneSnapshot : Prop :=
  ∀ s : State, ∃ t, exec .sample s = .next t ∧
    (∀ k : Fin 8, s.cfg.shiftIn = .msbFirst → t.regs.rawin.getLsbD (7 - k.val) = sdiLevel s k.val) ∧
    (∀ k : Fin 8, s.cfg.shiftIn = .lsbFirst → t.regs.rawin.getLsbD k.val = sdiLevel s k.val) ∧
    (∀ j : Fin 8, t.regs.pressed.getLsbD j.val = !(t.regs.rawin.getLsbD j.val)) ∧
    t.regs = { s.regs with rawin := t.regs.rawin, pressed := t.regs.pressed, busy := false, lastErr := 0#2 } ∧
    t.sqr.phase = .idle ∧ t.sqr.ob = s.regs.ext ∧ t.sqr.curOp = .sample ∧ t.pins = Pins.reset s.cfg ∧
    t.cfg = s.cfg ∧ t.inp = s.inp ∧ t.host = s.host ∧ (∀ n : Nat, sdiLevel t n = sdiLevel s (8 + n))

/-- Every raw byte is possible at every transfer (R110), a SAMPLE's and a TICK's: the board's levels decide it, and `@sdi raw`
(R79) are the levels that give it. -/
def Obligations.EveryRawByteIsPossible : Prop :=
  ∀ (s : State) (raw : Byte) (later : List Bool) (i : Instr), i = .sample ∨ i = .tick →
    ∃ t, exec i { s with sdi := levelsOf s.cfg.shiftIn raw ++ later } = .next t ∧ t.regs.rawin = raw ∧
      t.regs.pressed = ~~~raw ∧ t.sdi = later

/-- CLASSIFY (R135 with R132, R133, R134, R138): its words, MASK above 0x03; every button takes the transition of R132 against the
word's mask at the `now` of the acceptance cycle, `t`; LAST_ERR <- 0; PRESSED, RAWIN, EXT, the thresholds, BUSY and the bus are
unchanged. `d` is the duration modulo 2^TW as R137 writes it, of a timestamp that is a TW-bit value. A button's new state is
said through `tracking` and TRACK as it is read. -/
def Obligations.ClassifyTakesEachButtonsTransition : Prop :=
  (∀ m : Byte, (encode (.classify m)).toNat = m.toNat * 256 + 3 ∧ decode (encode (.classify m)) = .instr (.classify m)) ∧
  ∀ (m : Byte) (s : State) (t : Nat), t = s.inp.now % 2 ^ s.cfg.tw →
    ∃ u, exec (.classify m) s = .next u ∧
    (∀ b : Button,
      (tracking s b = false → bitOf m b = true →
        u.regs.tstart.get b = t ∧ bitOf u.regs.short b = false ∧ bitOf u.regs.long b = false ∧
          (s.cfg.sentinel = .explicit → tracking u b = true) ∧ (s.cfg.sentinel = .zero → (tracking u b = true ↔ t ≠ 0))) ∧
      (tracking s b = true → bitOf m b = true →
        u.regs.tstart.get b = s.regs.tstart.get b ∧ tracking u b = true ∧
          bitOf u.regs.short b = false ∧ bitOf u.regs.long b = false) ∧
      (tracking s b = false → bitOf m b = false →
        u.regs.tstart.get b = s.regs.tstart.get b ∧ tracking u b = false ∧
          bitOf u.regs.short b = false ∧ bitOf u.regs.long b = false) ∧
      (tracking s b = true → bitOf m b = false → s.regs.tstart.get b < 2 ^ s.cfg.tw →
        ∀ d : Nat, d = (t + 2 ^ s.cfg.tw - s.regs.tstart.get b) % 2 ^ s.cfg.tw →
          u.regs.tstart.get b = 0 ∧ tracking u b = false ∧
          (bitOf u.regs.short b = true ↔ s.regs.deb < d ∧ d < s.regs.longth) ∧
          (bitOf u.regs.long b = true ↔ s.regs.deb < d ∧ s.regs.longth ≤ d)) ∧
      bitOf (trackView u) b = tracking u b) ∧
    u.regs = { s.regs with
      track := u.regs.track, tstart := u.regs.tstart, short := u.regs.short, long := u.regs.long, lastErr := 0#2 } ∧
    SameBus s u ∧ SameOutside s u

/-- TICK equals SAMPLE followed at once by CLASSIFY ~RAWIN, with one `now` (R136); only CUR_OP tells them apart. -/
def Obligations.TickIsSampleThenClassify : Prop :=
  ∀ s : State, ∃ t u v, exec .tick s = .next t ∧ exec .sample s = .next u ∧
    exec (.classify (~~~u.regs.rawin)) u = .next v ∧
    t = { v with sqr := { v.sqr with curOp := .tick } }

/-- TICK (R136): the snapshot of the transfer and a pass over it in one commit, at the `now` that stands in the step (log entry
18); EXT is unchanged and was sent; BUSY and LAST_ERR end 0. A button's new state is said through `tracking`. The pins are said as
the commit leaves them (log entry 22). -/
def Obligations.TickSamplesAndClassifies : Prop :=
  ∀ (s : State) (t : Nat), t = s.inp.now % 2 ^ s.cfg.tw → ∃ u, exec .tick s = .next u ∧
    u.regs.rawin = assemble s.cfg.shiftIn (fun k => sdiLevel s k.val) ∧ u.regs.pressed = ~~~u.regs.rawin ∧
    (∀ b : Button,
      (bitOf u.regs.pressed b = true → tracking s b = true →
        u.regs.tstart.get b = s.regs.tstart.get b ∧ tracking u b = true ∧
          bitOf u.regs.short b = false ∧ bitOf u.regs.long b = false) ∧
      (bitOf u.regs.pressed b = true → tracking s b = false →
        u.regs.tstart.get b = t ∧ bitOf u.regs.short b = false ∧ bitOf u.regs.long b = false ∧
          (s.cfg.sentinel = .explicit → tracking u b = true) ∧ (s.cfg.sentinel = .zero → (tracking u b = true ↔ t ≠ 0))) ∧
      (bitOf u.regs.pressed b = false → tracking s b = false →
        u.regs.tstart.get b = s.regs.tstart.get b ∧ tracking u b = false ∧
          bitOf u.regs.short b = false ∧ bitOf u.regs.long b = false) ∧
      (bitOf u.regs.pressed b = false → tracking s b = true → s.regs.tstart.get b < 2 ^ s.cfg.tw →
        ∀ d : Nat, d = (t + 2 ^ s.cfg.tw - s.regs.tstart.get b) % 2 ^ s.cfg.tw →
          u.regs.tstart.get b = 0 ∧ tracking u b = false ∧
          (bitOf u.regs.short b = true ↔ s.regs.deb < d ∧ d < s.regs.longth) ∧
          (bitOf u.regs.long b = true ↔ s.regs.deb < d ∧ s.regs.longth ≤ d)) ∧
      bitOf (trackView u) b = tracking u b) ∧
    u.regs.ext = s.regs.ext ∧ u.regs.deb = s.regs.deb ∧ u.regs.longth = s.regs.longth ∧
    u.regs.busy = false ∧ u.regs.lastErr = 0#2 ∧
    u.sqr.phase = .idle ∧ u.sqr.ob = s.regs.ext ∧ u.pins = Pins.reset s.cfg ∧ u.cfg = s.cfg ∧ u.inp = s.inp ∧
    u.host = s.host ∧ (∀ n : Nat, sdiLevel u n = sdiLevel s (8 + n))

/-- CONFIGURE (R171): its word; with `deb` and `lng` the TW-bit operands on the buses, deb < lng sets both thresholds, clears
TSTART, TRACK, SHORT and LONG and writes LAST_ERR <- 0; otherwise LAST_ERR <- 2 and no other state changes. EXT, RAWIN, PRESSED and
the bus are unchanged either way. -/
def Obligations.ConfigureSetsThresholdsAndClears : Prop :=
  encode .configure = 0x0005#16 ∧
  ∀ (s : State) (deb lng : Nat), deb = s.inp.cmdArgA % 2 ^ s.cfg.tw → lng = s.inp.cmdArgB % 2 ^ s.cfg.tw →
    ∃ t, exec .configure s = .next t ∧ SameBus s t ∧ SameOutside s t ∧
    (deb < lng →
      t.regs = { s.regs with
        deb := deb, longth := lng, track := 0, tstart := ⟨0, 0, 0, 0, 0, 0, 0, 0⟩, short := 0, long := 0, lastErr := 0#2 } ∧
      noTracks t ∧ trackView t = 0) ∧
    (lng ≤ deb → t.regs = { s.regs with lastErr := 2#2 })

/-- R172: exactly the pairs with deb ≥ lng are rejected, and a rejected CONFIGURE changes nothing except LAST_ERR = 2. -/
def Obligations.RejectedConfigureChangesNothingElse : Prop :=
  ∀ (s : State) (deb lng : Nat), deb = s.inp.cmdArgA % 2 ^ s.cfg.tw → lng = s.inp.cmdArgB % 2 ^ s.cfg.tw →
    ∃ t, exec .configure s = .next t ∧
    (lng ≤ deb ↔ t.regs.lastErr = 2#2) ∧
    (t.regs.lastErr = 2#2 → t = { s with regs := { s.regs with lastErr := 2#2 } }) ∧
    (t.regs.lastErr ≠ 2#2 → t.regs.deb = deb ∧ t.regs.longth = lng ∧ t.regs.lastErr = 0#2)

/-! ### The classifier (spec/41_classifier.md) -/

/-- R133: the three bands of a duration with their boundaries, which under DEB < LONGTH partition every duration, and their effect
in the pass that sees a tracked button released: neither event, SHORT, or LONG. -/
def Obligations.ThreeBandsPartitionEveryDuration : Prop :=
  (∀ deb lng d : Nat, deb < lng →
    (bandOf deb lng d = .discarded ↔ d ≤ deb) ∧
    (bandOf deb lng d = .short ↔ deb < d ∧ d < lng) ∧
    (bandOf deb lng d = .long ↔ lng ≤ d) ∧
    bandOf deb lng deb = .discarded ∧ bandOf deb lng lng = .long) ∧
  (∀ (m : Byte) (t : Nat) (s : State) (b : Button), tracking s b = true → bitOf m b = false →
    (bitOf (classifyPass m t s).regs.short b = true ↔
      bandOf s.regs.deb s.regs.longth (subTW s.cfg t (s.regs.tstart.get b)) = .short) ∧
    (bitOf (classifyPass m t s).regs.long b = true ↔
      bandOf s.regs.deb s.regs.longth (subTW s.cfg t (s.regs.tstart.get b)) = .long))

/-- The pass is the loop R134 writes, in whichever order the loop visits the eight buttons (R130). -/
def Obligations.PassIsTheLoopInAnyOrder : Prop :=
  ∀ (order : List Button) (m : Byte) (t : Nat) (s : State),
    order.Nodup → (∀ b : Button, b ∈ order) → passLoop order m t s = classifyPass m t s

/-- R130: what a pass gives for button b depends on nothing but its own mask bit, track bit and TSTART entry, the thresholds,
the pass time, the mode and TW. -/
def Obligations.ButtonsAreClassifiedIndependently : Prop :=
  ∀ (s s' : State) (m m' : Byte) (t : Nat) (b : Button),
    s'.cfg.sentinel = s.cfg.sentinel → s'.cfg.tw = s.cfg.tw → s'.regs.deb = s.regs.deb → s'.regs.longth = s.regs.longth →
    bitOf s'.regs.track b = bitOf s.regs.track b → s'.regs.tstart.get b = s.regs.tstart.get b → bitOf m' b = bitOf m b →
    bitOf (classifyPass m' t s').regs.track b = bitOf (classifyPass m t s).regs.track b ∧
    (classifyPass m' t s').regs.tstart.get b = (classifyPass m t s).regs.tstart.get b ∧
    bitOf (classifyPass m' t s').regs.short b = bitOf (classifyPass m t s).regs.short b ∧
    bitOf (classifyPass m' t s').regs.long b = bitOf (classifyPass m t s).regs.long b

/-- R139, items 1 to 6: what holds after every pass. Item 6 needs the track invariant before the pass, which every step keeps
(`StepKeepsTheInvariant`). -/
def Obligations.InvariantsAfterEveryPass : Prop :=
  ∀ (m : Byte) (t : Nat) (s : State), TrackInv s →
    (classifyPass m t s).regs.short &&& (classifyPass m t s).regs.long = 0 ∧
    ((classifyPass m t s).regs.short ||| (classifyPass m t s).regs.long) &&& m = 0 ∧
    ((classifyPass m t s).regs.short ||| (classifyPass m t s).regs.long) &&& ~~~(trackView s) = 0 ∧
    (s.cfg.sentinel = .explicit → trackView (classifyPass m t s) = m) ∧
    (s.cfg.sentinel = .zero → ∀ b : Button,
      bitOf (trackView (classifyPass m t s)) b = (bitOf m b && (bitOf (trackView s) b || (t != 0)))) ∧
    (∀ b : Button, bitOf (trackView (classifyPass m t s)) b = false → (classifyPass m t s).regs.tstart.get b = 0)

/-- R142: a pass whose mask equals the current TRACK leaves TRACK and TSTART unchanged and gives no event; in ZERO mode too,
where no button is then IDLE with its bit set. -/
def Obligations.PassOverTrackHasNoTransitions : Prop :=
  ∀ (t : Nat) (s : State),
    (classifyPass (trackView s) t s).regs =
      { s.regs with short := 0, long := 0 }

/-- R141 and R137: a press is timed from the first pass that saw it to the first pass that saw it released, however many passes
held it in between, and is classified by that duration; then the button is IDLE again. In ZERO mode a press must not begin at
time 0 (R131). -/
def Obligations.HeldPressIsTimedFromItsFirstPass : Prop :=
  ∀ (s : State) (b : Button) (t0 t1 : Nat) (m0 m1 : Byte) (held : List (Byte × Nat)),
    tracking s b = false → bitOf m0 b = true → (s.cfg.sentinel = .zero → t0 ≠ 0) →
    (∀ p ∈ held, bitOf p.1 b = true) → bitOf m1 b = false →
    ∀ u v : State, u = held.foldl (fun r p => classifyPass p.1 p.2 r) (classifyPass m0 t0 s) → v = classifyPass m1 t1 u →
      tracking u b = true ∧ u.regs.tstart.get b = t0 ∧
      tracking v b = false ∧ v.regs.tstart.get b = 0 ∧
      (bitOf v.regs.short b = true ↔ bandOf s.regs.deb s.regs.longth (subTW s.cfg t1 t0) = .short) ∧
      (bitOf v.regs.long b = true ↔ bandOf s.regs.deb s.regs.longth (subTW s.cfg t1 t0) = .long)

/-- R140: events fire on release only. A pass sets an event bit only for a button that was TRACKING, is released in it and was
held longer than DEB; and whatever step the machine takes, an event that was not there before it is of a button that was
TRACKING before the step and is IDLE after it, so that while a button is held nothing gives an event. -/
def Obligations.EventsOnlyOnRelease : Prop :=
  (∀ (m : Byte) (t : Nat) (s : State) (b : Button),
    (bitOf (classifyPass m t s).regs.short b = true ∨ bitOf (classifyPass m t s).regs.long b = true) →
      tracking s b = true ∧ bitOf m b = false ∧ tracking (classifyPass m t s) b = false ∧
      s.regs.deb < subTW s.cfg t (s.regs.tstart.get b)) ∧
  (∀ (s t : State) (b : Button), step s = .next t →
    ((bitOf t.regs.short b = true ∧ bitOf s.regs.short b = false) ∨
      (bitOf t.regs.long b = true ∧ bitOf s.regs.long b = false)) →
    tracking s b = true ∧ tracking t b = false)

/-- R137: for TW-bit values the duration is a TW-bit value, congruent to the difference modulo 2^TW: the difference itself when
`now` has not gone back, and 2^TW more than it when it has. -/
def Obligations.DurationIsTheModularDifference : Prop :=
  ∀ (c : Config.Params) (start t : Nat), start < 2 ^ c.tw → t < 2 ^ c.tw →
    subTW c t start < 2 ^ c.tw ∧ (subTW c t start + start) % 2 ^ c.tw = t ∧
    (MonotonicSince start t → subTW c t start = t - start) ∧
    (t < start → subTW c t start = 2 ^ c.tw + t - start)

/-! ### Who writes what -/

/-- R28: only a SETBIT writes EXT, besides reset; no transfer changes it. Said of every step of the machine. -/
def Obligations.OnlySetbitOrResetChangesExt : Prop :=
  ∀ s t : State, step s = .next t → t.regs.ext ≠ s.regs.ext →
    (∃ m rest, s.host = m :: rest ∧ resetMove m = true ∧ t.regs.ext = s.cfg.extReset) ∨
    (∃ m w a b rest line value, s.host = m :: rest ∧ OffersWord m w a b ∧
      s.sqr.phase = .idle ∧ decode w = .instr (.setbit line value) ∧ t.regs.ext = setLine s.regs.ext line value)

/-- R144: whenever a step changes a threshold, no button is tracked after it, so that every press is measured under one pair of
thresholds; and only a CONFIGURE or reset changes one. -/
def Obligations.ThresholdChangesEndEveryTrack : Prop :=
  ∀ s t : State, step s = .next t → (t.regs.deb ≠ s.regs.deb ∨ t.regs.longth ≠ s.regs.longth) →
    noTracks t ∧ t.regs.short = 0 ∧ t.regs.long = 0 ∧
    ((∃ m rest, s.host = m :: rest ∧ resetMove m = true) ∨
     ∃ m w a b rest, s.host = m :: rest ∧ OffersWord m w a b ∧
       decode w = .instr .configure ∧ portValue s.cfg a < portValue s.cfg b ∧ t.regs.deb = portValue s.cfg a ∧
       t.regs.longth = portValue s.cfg b)

/-- R237: SAMPLE, SETBIT, NOP, a rejected CONFIGURE and an illegal word leave the events, the tracks and the timers as they are; a
CLASSIFY or TICK leaves no event of an earlier pass: its events are of buttons it released; a successful CONFIGURE clears the
events. -/
def Obligations.EventsLastOnePass : Prop :=
  (∀ (i : Instr) (s t : State), exec i s = .next t →
    ((i = .sample ∨ i = .nop ∨ (∃ line value, i = .setbit line value) ∨
        (i = .configure ∧ s.inp.cmdArgB % 2 ^ s.cfg.tw ≤ s.inp.cmdArgA % 2 ^ s.cfg.tw)) →
      t.regs.short = s.regs.short ∧ t.regs.long = s.regs.long ∧ t.regs.track = s.regs.track ∧
        t.regs.tstart = s.regs.tstart) ∧
    ((i = .tick ∨ ∃ m, i = .classify m) →
      ∀ b : Button, (bitOf t.regs.short b = true ∨ bitOf t.regs.long b = true) → tracking s b = true ∧ tracking t b = false) ∧
    (i = .configure → s.inp.cmdArgA % 2 ^ s.cfg.tw < s.inp.cmdArgB % 2 ^ s.cfg.tw → t.regs.short = 0 ∧ t.regs.long = 0)) ∧
  (∀ (w : CmdWord) (s : State), (decode w).isLegal = false → ∃ t, issue w s = .next t ∧ t.regs.short = s.regs.short ∧
    t.regs.long = s.regs.long ∧ t.regs.track = s.regs.track ∧ t.regs.tstart = s.regs.tstart)

/-- R20's table, R22 to R25, R28, R29: the frame of the whole command set, for each register the commands that alone write it. -/
def Obligations.CommandsWriteOnlyTheirRegisters : Prop :=
  ∀ (i : Instr) (s t : State), exec i s = .next t →
    (i ≠ .configure → t.regs.deb = s.regs.deb ∧ t.regs.longth = s.regs.longth) ∧
    ((∀ line value, i ≠ .setbit line value) → t.regs.ext = s.regs.ext) ∧
    ((∀ m, i ≠ .classify m) → i ≠ .tick → i ≠ .configure →
      t.regs.short = s.regs.short ∧ t.regs.long = s.regs.long ∧ t.regs.track = s.regs.track ∧
        t.regs.tstart = s.regs.tstart) ∧
    (i ≠ .sample → i ≠ .tick →
      t.regs.pressed = s.regs.pressed ∧ t.regs.rawin = s.regs.rawin ∧ t.regs.busy = s.regs.busy ∧ SameBus s t ∧
        SameOutside s t) ∧
    t.cfg = s.cfg ∧ t.inp = s.inp ∧ t.host = s.host ∧ t.regs.lastErr ≠ 3#2 ∧ t.regs.lastErr ≠ 1#2 ∧
    (t.regs.lastErr = 2#2 → i = .configure)

/-- The LAST_ERR codes of R201: 0 by every legal command but a rejected CONFIGURE, 2 by that one, 1 by any illegal word; and no
step of the machine ever writes 3. -/
def Obligations.LastErrCodes : Prop :=
  (∀ (i : Instr) (s t : State), exec i s = .next t →
    (t.regs.lastErr = 0#2 ↔ ¬(i = .configure ∧ s.inp.cmdArgB % 2 ^ s.cfg.tw ≤ s.inp.cmdArgA % 2 ^ s.cfg.tw)) ∧
    (t.regs.lastErr = 2#2 ↔ i = .configure ∧ s.inp.cmdArgB % 2 ^ s.cfg.tw ≤ s.inp.cmdArgA % 2 ^ s.cfg.tw)) ∧
  (∀ (w : CmdWord) (s : State), (decode w).isLegal = false →
    ∃ t, issue w s = .next t ∧ t.regs = { s.regs with lastErr := 1#2 }) ∧
  (∀ s t : State, step s = .next t → t.regs.lastErr = 3#2 → s.regs.lastErr = 3#2)

/-! ### The read port (spec/20_memory.md) -/

/-- The map of R51, at all 32 addresses, and `rd_data` = ReadPort(`rd_addr`). STATUS is read as its fields, and TRACK as it is
stored in EXPLICIT mode and as R26 derives it in ZERO mode. -/
def Obligations.ReadPortMap : Prop :=
  ∀ s : State,
    readPort s 0x00#5 = 2 * s.regs.lastErr.toNat + s.regs.busy.toNat ∧
    readPort s 0x01#5 = s.regs.pressed.toNat ∧
    readPort s 0x02#5 = s.regs.short.toNat ∧
    readPort s 0x03#5 = s.regs.long.toNat ∧
    readPort s 0x04#5 = s.regs.ext.toNat ∧
    readPort s 0x05#5 = s.regs.rawin.toNat ∧
    readPort s 0x06#5 = s.regs.deb ∧
    readPort s 0x07#5 = s.regs.longth ∧
    (s.cfg.sentinel = .explicit → readPort s 0x08#5 = s.regs.track.toNat) ∧
    (s.cfg.sentinel = .zero → readPort s 0x08#5 < 2 ^ 8 ∧
      ∀ b : Button, (readPort s 0x08#5).testBit b.bit.val = true ↔ s.regs.tstart.get b ≠ 0) ∧
    (∀ b : Button, readPort s (0x10#5 + BitVec.ofNat 5 b.bit.val) = s.regs.tstart.get b) ∧
    (∀ a : ReadAddr, (9 ≤ a.toNat ∧ a.toNat ≤ 15) ∨ 24 ≤ a.toNat → readPort s a = 0) ∧
    rdData s = readPort s s.inp.rdAddr

/-- R30: the fields of STATUS: BUSY in bit 0, LAST_ERR in bits 2:1, and 0 above. -/
def Obligations.StatusFields : Prop :=
  ∀ (s : State) (n : Nat),
    (readPort s 0x00#5).testBit n =
      if n = 0 then s.regs.busy else if n = 1 then s.regs.lastErr.getLsbD 0
      else if n = 2 then s.regs.lastErr.getLsbD 1 else false

/-- R51, R53: the read data is TW bits wide. In every state that satisfies the invariant (which every step keeps), whatever the
legal configuration, no address reads a value of more than TW bits. -/
def Obligations.ReadDataFitsThePort : Prop :=
  ∀ (s : State) (a : ReadAddr), s.cfg.legal = true → EngineInv s → readPort s a < 2 ^ s.cfg.tw

/-- R52: a read changes no state; the step that drives a read address (a move of the model's host, log entry 3) only drives it,
and the data comes out in the same state. -/
def Obligations.ReadsHaveNoSideEffect : Prop :=
  ∀ (s : State) (a : ReadAddr) (rest : List HostMove), s.cfg.legal = true → s.host = .read a :: rest →
    ∃ t, step s = .next t ∧ t = { s with host := rest, inp := { s.inp with rdAddr := a } } ∧ rdData t = readPort s a ∧
      ∀ a' : ReadAddr, readPort t a' = readPort s a'

/-- R52: while a SAMPLE or TICK is in progress, every address but 0 reads what it read before the command was accepted, and
address 0 reads BUSY = 1 with the old LAST_ERR; said for every cycle of the transfer, up to and in its COMMIT cycle. -/
def Obligations.ReadsDuringBusyAreTheOldValues : Prop :=
  ∀ (s : State) (op : TransferOp) (n : Nat), 1 ≤ s.cfg.half → s.inp.rst = false → n ≤ 34 * s.cfg.half →
    ∃ t, clocks n (beginTransfer op s) = .next t ∧
      (∀ a : ReadAddr, a ≠ 0x00#5 → readPort t a = readPort s a) ∧
      readPort t 0x00#5 = statusWord { s.regs with busy := true }

/-! ### Reset (spec/70_reset_and_hazards.md) -/

/-- R36: the state after reset, register by register, for this hardware's parameters, and the relations R36 lists for it. -/
def Obligations.ResetValues : Prop :=
  (∀ b : Button, State.reset.regs.tstart.get b = 0) ∧ State.reset.regs.track = 0x00#8 ∧
  State.reset.regs.deb = 50 ∧ State.reset.regs.longth = 2000 ∧
  State.reset.regs.short = 0x00#8 ∧ State.reset.regs.long = 0x00#8 ∧ State.reset.regs.pressed = 0x00#8 ∧
  State.reset.regs.rawin = 0xFF#8 ∧ State.reset.regs.ext = 0x00#8 ∧
  State.reset.regs.busy = false ∧ State.reset.regs.lastErr = 0#2 ∧
  State.reset.sqr = { phase := .idle, curOp := .sample, ob := 0x00#8, sh := 0x00#8, k := 0, hc := 0 } ∧
  State.reset.pins = { sclk := false, latch := true, sdo := false } ∧
  cmdReady (driveReset State.reset) = false ∧ cmdReady State.reset = true ∧
  State.reset.regs.pressed = ~~~State.reset.regs.rawin ∧ State.reset.regs.short &&& State.reset.regs.long = 0 ∧
  (∀ b : Button, bitOf State.reset.regs.track b = false)

/-- R230 and R231: in a cycle with `rst` = 1 nothing is accepted and the whole state of R36 is loaded, whatever was going on, a
transfer in flight included; the first cycle with `rst` = 0 after it has `cmd_ready` = 1. -/
def Obligations.ResetLoadsTheResetState : Prop :=
  ∀ s : State, s.cfg.legal = true → s.inp.rst = true →
    ∃ t, clock s = .next t ∧ cmdReady s = false ∧
      (∀ b : Button, t.regs.tstart.get b = 0) ∧ t.regs.track = 0 ∧ t.regs.deb = s.cfg.debReset ∧
      t.regs.longth = s.cfg.longReset ∧ t.regs.short = 0 ∧ t.regs.long = 0 ∧ t.regs.pressed = 0 ∧
      t.regs.rawin = 0xFF#8 ∧ t.regs.ext = s.cfg.extReset ∧ t.regs.busy = false ∧ t.regs.lastErr = 0#2 ∧
      t.sqr = { phase := .idle, curOp := .sample, ob := 0, sh := 0, k := 0, hc := 0 } ∧
      t.pins.sclk = false ∧ t.pins.latch = !s.cfg.latchActive ∧ t.pins.sdo = s.cfg.sdoFill ∧
      (∀ inp : Inputs, inp.rst = false → cmdReady { t with inp := inp } = true) ∧ SameOutside s t

/-- Setting the default thresholds in the state after reset leaves the state after reset (vector K8). -/
def Obligations.DefaultConfigureKeepsTheResetState : Prop :=
  exec .configure { State.reset with inp := { State.reset.inp with cmdArgA := 50, cmdArgB := 2000 } } =
    .next { State.reset with inp := { State.reset.inp with cmdArgA := 50, cmdArgB := 2000 } }

/-! ### The invariant -/

/-- The invariant holds after reset. Its counts are the model's form (log entry 7). -/
def Obligations.InvariantHoldsAtReset : Prop := EngineInv State.reset

/-- Every step keeps the invariant: PRESSED = ~RAWIN, DEB < LONGTH, every time register is a TW-bit value (log entry 27), an IDLE
button's TSTART is 0, SHORT & LONG = 0, LAST_ERR is never 3, BUSY is 1 exactly outside IDLE, OB = EXT in a transfer, and each phase
has its pin levels and counts. The counts are the model's (log entry 7), and so is the stored TRACK of ZERO mode (log entry 10). -/
def Obligations.StepKeepsTheInvariant : Prop :=
  ∀ s t : State, EngineInv s → step s = .next t → EngineInv t

/-- Every state a run can reach, whatever the legal configuration, the host and the board, satisfies the invariant. As in
`StepKeepsTheInvariant`, its counts (K = 0 outside the phases that shift, HC = 0 in IDLE and COMMIT) are the model's choice (log
entry 7), and so is the stored TRACK of ZERO mode, which stays 0 (log entry 10); that time registers are numbers below 2^TW is
log entry 27. -/
def Obligations.ReachableStatesSatisfyTheInvariant : Prop :=
  ∀ s : State, Reachable s → EngineInv s

/-! ### The transfer at the clock (spec/40_transport_sampler.md) -/

/-- The transfer of R101, cycle by cycle: the levels of LATCH, SCLK and SDO in every cycle of the four phases, the instants at
which SDI is sampled (level k is taken by the end of the last low cycle of bit k of PH_D and at no other time), and the raw byte
at COMMIT. Cycle c of R101 is the state after c - 1 clock cycles from the state of cycle 1 (log entry 23); H is HALF. -/
def Obligations.TransferWaveform : Prop :=
  ∀ (s : State) (op : TransferOp) (H : Nat), s.cfg.half = H → 1 ≤ H → s.inp.rst = false →
    (∀ j, j < H → ∃ t, clocks j (beginTransfer op s) = .next t ∧
      shapeOf t = ⟨.phA, s.cfg.latchActive, false, s.pins.sdo⟩ ∧ (∀ n, sdiLevel t n = sdiLevel s n)) ∧
    (∀ (k : Fin 8) (j : Nat), j < H → ∃ t, clocks (H * (2 * k.val + 1) + j) (beginTransfer op s) = .next t ∧
      t.sqr.k = k ∧ shapeOf t = ⟨.phB, s.cfg.latchActive, false, outbit s.cfg.shiftOut s.regs.ext k⟩ ∧
      (∀ n, sdiLevel t n = sdiLevel s n)) ∧
    (∀ (k : Fin 8) (j : Nat), j < H → ∃ t, clocks (H * (2 * k.val + 2) + j) (beginTransfer op s) = .next t ∧
      t.sqr.k = k ∧ shapeOf t = ⟨.phB, s.cfg.latchActive, true, outbit s.cfg.shiftOut s.regs.ext k⟩ ∧
      (∀ n, sdiLevel t n = sdiLevel s n)) ∧
    (∀ j, j < H → ∃ t, clocks (17 * H + j) (beginTransfer op s) = .next t ∧
      shapeOf t = ⟨.phC, !s.cfg.latchActive, false, s.cfg.sdoFill⟩ ∧ (∀ n, sdiLevel t n = sdiLevel s n)) ∧
    (∀ (k : Fin 8) (j : Nat), j < H → ∃ t, clocks (H * (2 * k.val + 18) + j) (beginTransfer op s) = .next t ∧
      t.sqr.k = k ∧ shapeOf t = ⟨.phD, !s.cfg.latchActive, false, s.cfg.sdoFill⟩ ∧
      (∀ n, sdiLevel t n = sdiLevel s (k.val + n))) ∧
    (∀ (k : Fin 8) (j : Nat), j < H → ∃ t, clocks (H * (2 * k.val + 19) + j) (beginTransfer op s) = .next t ∧
      t.sqr.k = k ∧ shapeOf t = ⟨.phD, !s.cfg.latchActive, true, s.cfg.sdoFill⟩ ∧
      (∀ n, sdiLevel t n = sdiLevel s (k.val + 1 + n))) ∧
    (∃ t, clocks (34 * H) (beginTransfer op s) = .next t ∧
      shapeOf t = ⟨.commit, !s.cfg.latchActive, false, s.cfg.sdoFill⟩ ∧
      t.sqr.sh = assemble s.cfg.shiftIn (fun k => sdiLevel s k.val)) ∧
    (∃ t, clocks (34 * H + 1) (beginTransfer op s) = .next t ∧
      shapeOf t = ⟨.idle, !s.cfg.latchActive, false, s.cfg.sdoFill⟩ ∧
      t.regs.rawin = assemble s.cfg.shiftIn (fun k => sdiLevel s k.val))

/-- The collapsed commands refine the clocked ones (R13, R244): a SAMPLE or TICK accepted at the clock and run through its
34·HALF + 1 further cycles (R243) ends in exactly the state that `exec` gives; for the registers R13 leaves open, SH, K and HC,
that is the model's choice (log entry 7). -/
def Obligations.CollapsedTransferIsTheClockedTransfer : Prop :=
  ∀ (s : State) (i : Instr), i = .sample ∨ i = .tick → 1 ≤ s.cfg.half → s.inp.rst = false → s.inp.cmdValid = true →
    s.sqr.phase = .idle → decode s.inp.cmdWord = .instr i →
    clocks (34 * s.cfg.half + 2) s = exec i s

/-- R243: BUSY is 1 from the cycle after a SAMPLE or TICK is accepted up to and including its commit cycle, 34·HALF + 1 cycles,
with `cmd_ready` = 0 in each, and then the engine is ready again. -/
def Obligations.BusyLastsThirtyFourHalvesAndOne : Prop :=
  ∀ (s : State) (op : TransferOp), 1 ≤ s.cfg.half → s.inp.rst = false →
    (∀ n, n < 34 * s.cfg.half + 1 → ∃ t, clocks n (beginTransfer op s) = .next t ∧ t.regs.busy = true ∧ cmdReady t = false) ∧
    (∃ t, clocks (34 * s.cfg.half + 1) (beginTransfer op s) = .next t ∧ t.regs.busy = false ∧ cmdReady t = true)

/-- R138: a TICK reads `now` in its commit cycle and at no other time. No other cycle of a transfer depends on `now`, and the
value that stands there in the commit cycle is the pass time: the engine ends in the state that `exec` gives for that value. -/
def Obligations.TickReadsNowInItsCommitCycle : Prop :=
  (∀ (s : State) (t : Nat), s.inp.rst = false → s.sqr.phase ≠ .idle → s.sqr.phase ≠ .commit →
    ∃ u, clock s = .next u ∧
      clock { s with inp := { s.inp with now := t } } = .next { u with inp := { u.inp with now := t } }) ∧
  (∀ s : State, 1 ≤ s.cfg.half → s.inp.rst = false → s.inp.cmdValid = true → s.sqr.phase = .idle →
    decode s.inp.cmdWord = .instr .tick →
    ∃ u, clocks (34 * s.cfg.half + 1) s = .next u ∧ u.sqr.phase = .commit ∧ u.inp = s.inp ∧
      ∀ t : Nat, clock { u with inp := { u.inp with now := t } } = exec .tick { s with inp := { s.inp with now := t } })

/-- R163: if a SETBIT is run and then a SAMPLE or TICK, the PH_B bit sequence of that transfer, read at the first cycle of each
high half of SCLK, is the byte that SETBIT left in EXT, in SHIFT_OUT_ORDER. -/
def Obligations.SetbitThenTransferSendsTheNewByte : Prop :=
  ∀ (s : State) (line : Fin 8) (value : Bool) (op : TransferOp) (k : Fin 8), 1 ≤ s.cfg.half → s.inp.rst = false →
    ∃ t u, exec (.setbit line value) s = .next t ∧
      clocks (s.cfg.half * (2 * k.val + 2)) (beginTransfer op t) = .next u ∧
      u.pins.sclk = true ∧ u.sqr.phase = .phB ∧ u.sqr.k = k ∧
      u.pins.sdo = (if serialPos s.cfg.shiftOut k = line then value
        else s.regs.ext.getLsbD (serialPos s.cfg.shiftOut k).val)
end

