-- ==== Sys2Proof/Laws/Operands.lean ====
section
/-! SUPPORT. The small lemmas of the operand forms: bytes bit by bit, buttons and their bits, the serial order, and the levels
that the board presents. -/

namespace Sys2Proof

@[simp] theorem Button.ofBit_bit (b : Button) : Button.ofBit b.bit = b := by cases b <;> rfl

@[simp] theorem Button.bit_ofBit (i : Fin 8) : (Button.ofBit i).bit = i := by revert i; decide

theorem Button.bit_injective {a b : Button} (h : a.bit = b.bit) : a = b := by
  simpa using congrArg Button.ofBit h

namespace Machine

/-- Bit j of `byteOf f` is `f j`. -/
theorem getLsbD_byteOf (f : Fin 8 → Bool) (j : Fin 8) : (byteOf f).getLsbD j.val = f j := by
  unfold byteOf
  obtain ⟨j, hj⟩ := j
  interval_cases j <;>
    (simp only [Fin.zero_eta, Fin.mk_one, Fin.reduceFinMk]
     generalize f 0 = b0; generalize f 1 = b1; generalize f 2 = b2; generalize f 3 = b3
     generalize f 4 = b4; generalize f 5 = b5; generalize f 6 = b6; generalize f 7 = b7
     revert b0 b1 b2 b3 b4 b5 b6 b7
     decide)

@[simp] theorem getElem_byteOf (f : Fin 8 → Bool) (j : Fin 8) : (byteOf f)[j.val] = f j := by
  rw [← BitVec.getLsbD_eq_getElem, getLsbD_byteOf]

/-- Two bytes with the same bits are the same byte. -/
theorem byte_ext {x y : Byte} (h : ∀ j : Fin 8, x.getLsbD j.val = y.getLsbD j.val) : x = y :=
  BitVec.eq_of_getLsbD_eq fun i hi => h ⟨i, hi⟩

@[simp] theorem byteOf_getLsbD (x : Byte) : byteOf (fun j => x.getLsbD j.val) = x := byte_ext (by simp)

@[simp] theorem bitOf_maskOf (f : Button → Bool) (b : Button) : bitOf (maskOf f) b = f b := by
  simp [bitOf, maskOf]

/-- Two masks that agree on every button are the same mask. -/
theorem mask_ext {x y : Byte} (h : ∀ b : Button, bitOf x b = bitOf y b) : x = y :=
  byte_ext fun j => by simpa [bitOf] using h (Button.ofBit j)

@[simp] theorem maskOf_bitOf (m : Byte) : maskOf (bitOf m) = m := mask_ext (by simp)

@[simp] theorem bitOf_zero (b : Button) : bitOf 0#8 b = false := by simp [bitOf]

@[simp] theorem bitOf_and (x y : Byte) (b : Button) : bitOf (x &&& y) b = (bitOf x b && bitOf y b) := by simp [bitOf]

@[simp] theorem bitOf_or (x y : Byte) (b : Button) : bitOf (x ||| y) b = (bitOf x b || bitOf y b) := by simp [bitOf]

@[simp] theorem bitOf_not (x : Byte) (b : Button) : bitOf (~~~x) b = !bitOf x b := by
  simp [bitOf, b.bit.isLt]

@[simp] theorem PerButton.get_ofFn {α : Type} (f : Button → α) (b : Button) : (PerButton.ofFn f).get b = f b := by
  cases b <;> rfl

/-- Two files with the same entries are the same file. -/
theorem PerButton.ext_get {α : Type} {p q : PerButton α} (h : ∀ b, p.get b = q.get b) : p = q := by
  have h0 := h .right
  have h1 := h .ok
  have h2 := h .up
  have h3 := h .left
  have h4 := h .start
  have h5 := h .down
  have h6 := h .stop
  have h7 := h .home
  cases p
  cases q
  simp_all [PerButton.get]

@[simp] theorem PerButton.ofFn_get {α : Type} (p : PerButton α) : PerButton.ofFn p.get = p := ext_get (by simp)

@[simp] theorem PerButton.get_put {α : Type} (p : PerButton α) (b c : Button) (x : α) :
    (p.put b x).get c = if c = b then x else p.get c := by simp [PerButton.put]

/-- `setLine` writes one bit and leaves the other seven. -/
theorem getLsbD_setLine (ext : Byte) (line j : Fin 8) (value : Bool) :
    (setLine ext line value).getLsbD j.val = if j = line then value else ext.getLsbD j.val := by
  revert ext line j value
  unfold setLine
  decide

@[simp] theorem getElem_setLine (ext : Byte) (line j : Fin 8) (value : Bool) :
    (setLine ext line value)[j.val] = if j = line then value else ext[j.val] := by
  simpa using getLsbD_setLine ext line j value

@[simp] theorem bitOf_setBitOf (m : Byte) (b c : Button) (v : Bool) :
    bitOf (setBitOf m b v) c = if c = b then v else bitOf m c := by
  by_cases h : c = b
  · simp [bitOf, setBitOf, h]
  · have : c.bit ≠ b.bit := fun hc => h (Button.bit_injective hc)
    simp [bitOf, setBitOf, h, this]

@[simp] theorem serialPos_serialPos (o : Config.BitOrder) (k : Fin 8) : serialPos o (serialPos o k) = k := by
  cases o
  · ext; simp [serialPos]; omega
  · rfl

/-- The bit of the raw byte where R104 puts the k-th level. -/
@[simp] theorem getElem_assemble (o : Config.BitOrder) (s : Fin 8 → Bool) (j : Fin 8) :
    (assemble o s)[j.val] = s (serialPos o j) := by simp [assemble]

/-- The levels of `levelsOf raw` at the eight instants (R79). -/
theorem getElem_levelsOf (o : Config.BitOrder) (raw : Byte) (later : List Bool) (k : Fin 8) :
    (levelsOf o raw ++ later)[k.val]? = some (raw.getLsbD (serialPos o k).val) := by
  rw [List.getElem?_append_left (by simp [levelsOf])]
  simp [levelsOf]

@[simp] theorem length_levelsOf (o : Config.BitOrder) (raw : Byte) : (levelsOf o raw).length = 8 := by simp [levelsOf]

/-- Assembling the levels of a raw byte gives the byte (R104, R79). -/
@[simp] theorem assemble_levels (o : Config.BitOrder) (raw : Byte) :
    assemble o (fun k => raw.getLsbD (serialPos o k).val) = raw := byte_ext fun j => by simp

/-- A port carries a TW-bit value. -/
theorem portValue_lt (c : Config.Params) (n : Nat) : portValue c n < 2 ^ c.tw := Nat.mod_lt _ (Nat.two_pow_pos _)

/-- A number that fits the port is carried unchanged. -/
theorem portValue_of_lt {c : Config.Params} {n : Nat} (h : n < 2 ^ c.tw) : portValue c n = n := Nat.mod_eq_of_lt h

/-- A duration is a TW-bit value (R137). -/
theorem subTW_lt (c : Config.Params) (a b : Nat) : subTW c a b < 2 ^ c.tw := by
  have hp : 0 < 2 ^ c.tw := Nat.two_pow_pos _
  unfold subTW
  generalize 2 ^ c.tw = M at *
  have h0 := Int.emod_nonneg ((a : Int) - b) (b := (M : Int)) (by omega)
  have h1 := Int.emod_lt_of_pos ((a : Int) - b) (b := (M : Int)) (by omega)
  omega

/-- Subtraction of TW-bit values, in natural numbers (R12). -/
theorem subTW_eq_mod {c : Config.Params} {a b : Nat} (h : b < 2 ^ c.tw) :
    subTW c a b = (a + 2 ^ c.tw - b) % 2 ^ c.tw := by
  unfold subTW
  generalize 2 ^ c.tw = M at *
  have hc : (((a + M - b : Nat) : Int)) = (a : Int) - b + M := by omega
  have : ((a : Int) - b) % (M : Int) = (((a + M - b) % M : Nat) : Int) := by
    rw [Int.natCast_emod, hc, Int.add_emod_right]
  rw [this, Int.toNat_natCast]

/-- A listed level is the level at its instant. -/
theorem sdiLevel_listed {s : State} {n : Nat} {level : Bool} (h : s.sdi[n]? = some level) : sdiLevel s n = level := by
  simp [sdiLevel, h]

/-- The levels after m instants are the later levels. -/
theorem sdiLevel_advance (m n : Nat) (s : State) : sdiLevel (advanceSdi m s) n = sdiLevel s (m + n) := by
  unfold sdiLevel advanceSdi
  simp only [List.getElem?_drop, List.length_drop]
  rcases h : s.sdi[m + n]? with _ | level
  · have hlen : s.sdi.length ≤ m + n := by simpa using h
    simp only
    congr 1
    omega
  · rfl

/-- Passing no instant changes nothing. -/
@[simp] theorem advanceSdi_zero (s : State) : advanceSdi 0 s = s := by simp [advanceSdi]

/-- Passing m instants and then n passes m + n. -/
theorem advanceSdi_add (m n : Nat) (s : State) : advanceSdi n (advanceSdi m s) = advanceSdi (m + n) s := by
  unfold advanceSdi
  simp only [List.drop_drop, List.length_drop]
  congr 1
  omega

end Machine

end Sys2Proof
end

