-- ==== Sys2Proof/Laws/State.lean ====
section
/-! SUPPORT. One lemma per field and update, each true by computation, so that later proofs need not unfold a record update. -/

namespace Sys2Proof.Machine

section SetLastErr
variable (e : BitVec 2) (s : State)
@[simp] theorem setLastErr_cfg : (setLastErr e s).cfg = s.cfg := rfl
@[simp] theorem setLastErr_regs : (setLastErr e s).regs = { s.regs with lastErr := e } := rfl
@[simp] theorem setLastErr_sqr : (setLastErr e s).sqr = s.sqr := rfl
@[simp] theorem setLastErr_pins : (setLastErr e s).pins = s.pins := rfl
@[simp] theorem setLastErr_inp : (setLastErr e s).inp = s.inp := rfl
@[simp] theorem setLastErr_host : (setLastErr e s).host = s.host := rfl
@[simp] theorem setLastErr_sdi : (setLastErr e s).sdi = s.sdi := rfl
@[simp] theorem setLastErr_sdiDrawn : (setLastErr e s).sdiDrawn = s.sdiDrawn := rfl
end SetLastErr

section IllegalWord
variable (s : State)
@[simp] theorem illegalWord_cfg : (illegalWord s).cfg = s.cfg := rfl
@[simp] theorem illegalWord_regs : (illegalWord s).regs = { s.regs with lastErr := errIllegalCmd } := rfl
@[simp] theorem illegalWord_sqr : (illegalWord s).sqr = s.sqr := rfl
@[simp] theorem illegalWord_pins : (illegalWord s).pins = s.pins := rfl
@[simp] theorem illegalWord_inp : (illegalWord s).inp = s.inp := rfl
@[simp] theorem illegalWord_host : (illegalWord s).host = s.host := rfl
@[simp] theorem illegalWord_sdi : (illegalWord s).sdi = s.sdi := rfl
@[simp] theorem illegalWord_sdiDrawn : (illegalWord s).sdiDrawn = s.sdiDrawn := rfl
end IllegalWord

section LoadReset
variable (s : State)
@[simp] theorem loadReset_cfg : (loadReset s).cfg = s.cfg := rfl
@[simp] theorem loadReset_regs : (loadReset s).regs = Regs.reset s.cfg := rfl
@[simp] theorem loadReset_sqr : (loadReset s).sqr = Sequencer.reset := rfl
@[simp] theorem loadReset_pins : (loadReset s).pins = Pins.reset s.cfg := rfl
@[simp] theorem loadReset_inp : (loadReset s).inp = s.inp := rfl
@[simp] theorem loadReset_host : (loadReset s).host = s.host := rfl
@[simp] theorem loadReset_sdi : (loadReset s).sdi = s.sdi := rfl
@[simp] theorem loadReset_sdiDrawn : (loadReset s).sdiDrawn = s.sdiDrawn := rfl
end LoadReset

section AdvanceSdi
variable (n : Nat) (s : State)
@[simp] theorem advanceSdi_cfg : (advanceSdi n s).cfg = s.cfg := rfl
@[simp] theorem advanceSdi_regs : (advanceSdi n s).regs = s.regs := rfl
@[simp] theorem advanceSdi_sqr : (advanceSdi n s).sqr = s.sqr := rfl
@[simp] theorem advanceSdi_pins : (advanceSdi n s).pins = s.pins := rfl
@[simp] theorem advanceSdi_inp : (advanceSdi n s).inp = s.inp := rfl
@[simp] theorem advanceSdi_host : (advanceSdi n s).host = s.host := rfl
@[simp] theorem advanceSdi_sdi : (advanceSdi n s).sdi = s.sdi.drop n := rfl
@[simp] theorem advanceSdi_sdiDrawn : (advanceSdi n s).sdiDrawn = s.sdiDrawn + (n - s.sdi.length) := rfl
end AdvanceSdi

section BeginTransfer
variable (op : TransferOp) (s : State)
@[simp] theorem beginTransfer_cfg : (beginTransfer op s).cfg = s.cfg := rfl
@[simp] theorem beginTransfer_regs : (beginTransfer op s).regs = { s.regs with busy := true } := rfl
@[simp] theorem beginTransfer_sqr : (beginTransfer op s).sqr =
    { phase := .phA, curOp := op, ob := s.regs.ext, sh := s.sqr.sh, k := 0, hc := 0 } := rfl
@[simp] theorem beginTransfer_pins : (beginTransfer op s).pins =
    { sclk := false, latch := s.cfg.latchActive, sdo := s.pins.sdo } := rfl
@[simp] theorem beginTransfer_inp : (beginTransfer op s).inp = s.inp := rfl
@[simp] theorem beginTransfer_host : (beginTransfer op s).host = s.host := rfl
@[simp] theorem beginTransfer_sdi : (beginTransfer op s).sdi = s.sdi := rfl
@[simp] theorem beginTransfer_sdiDrawn : (beginTransfer op s).sdiDrawn = s.sdiDrawn := rfl
end BeginTransfer

section RunTransfer
variable (s : State)
@[simp] theorem runTransfer_cfg : (runTransfer s).cfg = s.cfg := rfl
@[simp] theorem runTransfer_regs : (runTransfer s).regs = s.regs := rfl
@[simp] theorem runTransfer_sqr : (runTransfer s).sqr =
    { s.sqr with
      phase := .commit, sh := assemble s.cfg.shiftIn (fun k => sdiLevel s k.val), k := 0, hc := 0 } := rfl
@[simp] theorem runTransfer_pins : (runTransfer s).pins = Pins.reset s.cfg := rfl
@[simp] theorem runTransfer_inp : (runTransfer s).inp = s.inp := rfl
@[simp] theorem runTransfer_host : (runTransfer s).host = s.host := rfl
@[simp] theorem runTransfer_sdi : (runTransfer s).sdi = s.sdi.drop 8 := rfl
@[simp] theorem runTransfer_sdiDrawn : (runTransfer s).sdiDrawn = s.sdiDrawn + (8 - s.sdi.length) := rfl
end RunTransfer

section EndTransfer
variable (s : State)
@[simp] theorem endTransfer_cfg : (endTransfer s).cfg = s.cfg := rfl
@[simp] theorem endTransfer_regs : (endTransfer s).regs = { s.regs with busy := false, lastErr := errNone } := rfl
@[simp] theorem endTransfer_sqr : (endTransfer s).sqr = { s.sqr with phase := .idle } := rfl
@[simp] theorem endTransfer_pins : (endTransfer s).pins = s.pins := rfl
@[simp] theorem endTransfer_inp : (endTransfer s).inp = s.inp := rfl
@[simp] theorem endTransfer_host : (endTransfer s).host = s.host := rfl
@[simp] theorem endTransfer_sdi : (endTransfer s).sdi = s.sdi := rfl
@[simp] theorem endTransfer_sdiDrawn : (endTransfer s).sdiDrawn = s.sdiDrawn := rfl
end EndTransfer

section WriteSnapshot
variable (s : State)
@[simp] theorem writeSnapshot_cfg : (writeSnapshot s).cfg = s.cfg := rfl
@[simp] theorem writeSnapshot_regs :
    (writeSnapshot s).regs = { s.regs with rawin := s.sqr.sh, pressed := ~~~s.sqr.sh } := rfl
@[simp] theorem writeSnapshot_sqr : (writeSnapshot s).sqr = s.sqr := rfl
@[simp] theorem writeSnapshot_pins : (writeSnapshot s).pins = s.pins := rfl
@[simp] theorem writeSnapshot_inp : (writeSnapshot s).inp = s.inp := rfl
@[simp] theorem writeSnapshot_host : (writeSnapshot s).host = s.host := rfl
@[simp] theorem writeSnapshot_sdi : (writeSnapshot s).sdi = s.sdi := rfl
@[simp] theorem writeSnapshot_sdiDrawn : (writeSnapshot s).sdiDrawn = s.sdiDrawn := rfl
end WriteSnapshot

section Pass
variable (m : Byte) (t : Nat) (s : State)
@[simp] theorem classifyPass_cfg : (classifyPass m t s).cfg = s.cfg := rfl
@[simp] theorem classifyPass_busy : (classifyPass m t s).regs.busy = s.regs.busy := rfl
@[simp] theorem classifyPass_lastErr : (classifyPass m t s).regs.lastErr = s.regs.lastErr := rfl
@[simp] theorem classifyPass_pressed : (classifyPass m t s).regs.pressed = s.regs.pressed := rfl
@[simp] theorem classifyPass_rawin : (classifyPass m t s).regs.rawin = s.regs.rawin := rfl
@[simp] theorem classifyPass_ext : (classifyPass m t s).regs.ext = s.regs.ext := rfl
@[simp] theorem classifyPass_deb : (classifyPass m t s).regs.deb = s.regs.deb := rfl
@[simp] theorem classifyPass_longth : (classifyPass m t s).regs.longth = s.regs.longth := rfl
@[simp] theorem classifyPass_sqr : (classifyPass m t s).sqr = s.sqr := rfl
@[simp] theorem classifyPass_pins : (classifyPass m t s).pins = s.pins := rfl
@[simp] theorem classifyPass_inp : (classifyPass m t s).inp = s.inp := rfl
@[simp] theorem classifyPass_host : (classifyPass m t s).host = s.host := rfl
@[simp] theorem classifyPass_sdi : (classifyPass m t s).sdi = s.sdi := rfl
@[simp] theorem classifyPass_sdiDrawn : (classifyPass m t s).sdiDrawn = s.sdiDrawn := rfl
end Pass

section WriteLine
variable (line : Fin 8) (value : Bool) (s : State)
@[simp] theorem writeLine_cfg : (writeLine line value s).cfg = s.cfg := rfl
@[simp] theorem writeLine_regs :
    (writeLine line value s).regs = { s.regs with ext := setLine s.regs.ext line value } := rfl
@[simp] theorem writeLine_sqr : (writeLine line value s).sqr = s.sqr := rfl
@[simp] theorem writeLine_pins : (writeLine line value s).pins = s.pins := rfl
@[simp] theorem writeLine_inp : (writeLine line value s).inp = s.inp := rfl
@[simp] theorem writeLine_host : (writeLine line value s).host = s.host := rfl
@[simp] theorem writeLine_sdi : (writeLine line value s).sdi = s.sdi := rfl
@[simp] theorem writeLine_sdiDrawn : (writeLine line value s).sdiDrawn = s.sdiDrawn := rfl
end WriteLine

section Reconfigure
variable (deb lng : Nat) (s : State)
@[simp] theorem reconfigure_cfg : (reconfigure deb lng s).cfg = s.cfg := rfl
@[simp] theorem reconfigure_sqr : (reconfigure deb lng s).sqr = s.sqr := rfl
@[simp] theorem reconfigure_pins : (reconfigure deb lng s).pins = s.pins := rfl
@[simp] theorem reconfigure_inp : (reconfigure deb lng s).inp = s.inp := rfl
@[simp] theorem reconfigure_host : (reconfigure deb lng s).host = s.host := rfl
@[simp] theorem reconfigure_sdi : (reconfigure deb lng s).sdi = s.sdi := rfl
@[simp] theorem reconfigure_sdiDrawn : (reconfigure deb lng s).sdiDrawn = s.sdiDrawn := rfl
@[simp] theorem reconfigure_regs : (reconfigure deb lng s).regs =
    { s.regs with
      deb := deb, longth := lng, tstart := PerButton.ofFn (fun _ => 0), track := 0, short := 0, long := 0 } := rfl
end Reconfigure

section HoldHalf
variable (s : State)
@[simp] theorem holdHalf_cfg : (holdHalf s).cfg = s.cfg := rfl
@[simp] theorem holdHalf_regs : (holdHalf s).regs = s.regs := rfl
@[simp] theorem holdHalf_sqr : (holdHalf s).sqr = { s.sqr with hc := s.sqr.hc + 1 } := rfl
@[simp] theorem holdHalf_pins : (holdHalf s).pins = s.pins := rfl
@[simp] theorem holdHalf_inp : (holdHalf s).inp = s.inp := rfl
@[simp] theorem holdHalf_host : (holdHalf s).host = s.host := rfl
@[simp] theorem holdHalf_sdi : (holdHalf s).sdi = s.sdi := rfl
@[simp] theorem holdHalf_sdiDrawn : (holdHalf s).sdiDrawn = s.sdiDrawn := rfl
end HoldHalf

section Drive
variable (rst valid : Bool) (w : CmdWord) (a b : Nat) (rest : List HostMove) (s : State)
@[simp] theorem drivePorts_cfg : (drivePorts rst valid w a b s).cfg = s.cfg := rfl
@[simp] theorem drivePorts_regs : (drivePorts rst valid w a b s).regs = s.regs := rfl
@[simp] theorem drivePorts_sqr : (drivePorts rst valid w a b s).sqr = s.sqr := rfl
@[simp] theorem drivePorts_pins : (drivePorts rst valid w a b s).pins = s.pins := rfl
@[simp] theorem drivePorts_inp : (drivePorts rst valid w a b s).inp =
    { s.inp with rst := rst, cmdValid := valid, cmdWord := w, cmdArgA := a, cmdArgB := b } := rfl
@[simp] theorem drivePorts_host : (drivePorts rst valid w a b s).host = s.host := rfl
@[simp] theorem drivePorts_sdi : (drivePorts rst valid w a b s).sdi = s.sdi := rfl
@[simp] theorem drivePorts_sdiDrawn : (drivePorts rst valid w a b s).sdiDrawn = s.sdiDrawn := rfl
@[simp] theorem offered_cfg : (offered w a b rest s).cfg = s.cfg := rfl
@[simp] theorem offered_regs : (offered w a b rest s).regs = s.regs := rfl
@[simp] theorem offered_sqr : (offered w a b rest s).sqr = s.sqr := rfl
@[simp] theorem offered_pins : (offered w a b rest s).pins = s.pins := rfl
@[simp] theorem offered_host : (offered w a b rest s).host = rest := rfl
@[simp] theorem offered_inp : (offered w a b rest s).inp =
    { s.inp with rst := false, cmdValid := true, cmdWord := w, cmdArgA := a, cmdArgB := b } := rfl
@[simp] theorem offered_sdi : (offered w a b rest s).sdi = s.sdi := rfl
@[simp] theorem offered_sdiDrawn : (offered w a b rest s).sdiDrawn = s.sdiDrawn := rfl
end Drive

/-! The operands a command takes from the ports are those of the state it was accepted in. -/

section PortOperands
variable (op : TransferOp) (s : State)
@[simp] theorem passTime_beginTransfer : passTime (beginTransfer op s) = passTime s := rfl
@[simp] theorem passTime_runTransfer : passTime (runTransfer s) = passTime s := rfl
@[simp] theorem passTime_writeSnapshot : passTime (writeSnapshot s) = passTime s := rfl
end PortOperands

end Sys2Proof.Machine
end

