-- ==== Sys2Proof/Laws/Classifier.lean ====
section
/-! SUPPORT. What a classification pass does, said once per button: the pass as the shared operation `classifyPass`, read through
one bit or one TSTART entry, and the four transitions of spec/41_classifier.md R132. Later proofs cite these and unfold neither
`classifyPass` nor `buttonStep`. -/

namespace Sys2Proof.Machine

section Pass
variable (m : Byte) (t : Nat) (s : State) (b : Button)

@[simp] theorem bitOf_classifyPass_track :
    bitOf (classifyPass m t s).regs.track b = (passButton s m t b).track := by simp [classifyPass]

@[simp] theorem bitOf_classifyPass_short :
    bitOf (classifyPass m t s).regs.short b = (passButton s m t b).short := by simp [classifyPass]

@[simp] theorem bitOf_classifyPass_long :
    bitOf (classifyPass m t s).regs.long b = (passButton s m t b).long := by simp [classifyPass]

@[simp] theorem get_classifyPass_tstart :
    (classifyPass m t s).regs.tstart.get b = (passButton s m t b).tstart := by simp [classifyPass]

/-- The four transitions of R132. -/
theorem passButton_cases :
    passButton s m t b =
      match tracking s b, bitOf m b with
      | false, true => beginTrack s.cfg.sentinel (bitOf s.regs.track b) t
      | true, false =>
        endTrack s.cfg.sentinel (bitOf s.regs.track b)
          (bandOf s.regs.deb s.regs.longth (subTW s.cfg t (s.regs.tstart.get b)))
      | true, true => ⟨bitOf s.regs.track b, s.regs.tstart.get b, false, false⟩
      | false, false => ⟨bitOf s.regs.track b, s.regs.tstart.get b, false, false⟩ := rfl

/-- A button's state after a pass, from what the pass gives for it. -/
theorem tracking_classifyPass :
    tracking (classifyPass m t s) b =
      isTracking s.cfg.sentinel (passButton s m t b).track (passButton s m t b).tstart := by simp [tracking]

/-- TRACK as read, bit by bit, is `tracking` (R26). -/
theorem bitOf_trackView : bitOf (trackView s) b = tracking s b := by
  simp only [trackView, tracking, isTracking]
  split <;> simp_all

/-- A pass gives an event only for a button that it took from TRACKING to IDLE. -/
theorem passButton_event (h : (passButton s m t b).short = true ∨ (passButton s m t b).long = true) :
    tracking s b = true ∧ bitOf m b = false ∧ tracking (classifyPass m t s) b = false := by
  rw [tracking_classifyPass]
  rw [passButton_cases] at h ⊢
  revert h
  rcases tracking s b <;> rcases bitOf m b <;> simp [beginTrack, endTrack] <;> cases s.cfg.sentinel <;>
    simp [isTracking]

end Pass

/-- One turn of R134's loop, read through any button. -/
theorem visitButton_get (m : Byte) (t : Nat) (s : State) (b c : Button) :
    bitOf (visitButton m t s b).regs.track c = (if c = b then (passButton s m t b).track else bitOf s.regs.track c) ∧
    bitOf (visitButton m t s b).regs.short c = (if c = b then (passButton s m t b).short else bitOf s.regs.short c) ∧
    bitOf (visitButton m t s b).regs.long c = (if c = b then (passButton s m t b).long else bitOf s.regs.long c) ∧
    (visitButton m t s b).regs.tstart.get c =
      (if c = b then (passButton s m t b).tstart else s.regs.tstart.get c) := by
  simp [visitButton]

end Sys2Proof.Machine
end

