-- ==== Sys2Proof/Laws/Step.lean ====
section
/-! SUPPORT. What one step can do, said once: a clock cycle by cases, a step by cases, and what a cycle of a transfer leaves
alone. Later proofs about `step` start from `step_cases` and unfold nothing. -/

namespace Sys2Proof.Machine

/-- `cmd_ready` (R175). -/
theorem cmdReady_iff {s : State} : cmdReady s = true ↔ s.inp.rst = false ∧ s.sqr.phase = .idle := by
  simp [cmdReady]

/-- Two states of the same engine: they differ at most in what comes from outside. -/
def SameEngine (s s' : State) : Prop :=
  s'.cfg = s.cfg ∧ s'.regs = s.regs ∧ s'.sqr = s.sqr ∧ s'.pins = s.pins

theorem SameEngine.refl (s : State) : SameEngine s s := ⟨rfl, rfl, rfl, rfl⟩

/-- The engine's part of a word accepted in IDLE: an illegal word, a command run to its commit, or a transfer begun. -/
def AcceptsWord (w : CmdWord) (s t : State) : Prop :=
  (∃ why, decode w = .illegal why ∧ t = illegalWord s) ∨
  (∃ i, decode w = .instr i ∧ exec i s = .next t) ∨
  (decode w = .instr .sample ∧ t = beginTransfer .sample s) ∨
  (decode w = .instr .tick ∧ t = beginTransfer .tick s)

theorem acceptWord_cases {w : CmdWord} {s t : State} (h : acceptWord w s = .next t) : AcceptsWord w s t := by
  unfold acceptWord at h
  rcases hd : decode w with i | why
  · cases i with
    | sample => exact .inr (.inr (.inl ⟨hd, by simpa [hd] using h.symm⟩))
    | tick => exact .inr (.inr (.inr ⟨hd, by simpa [hd] using h.symm⟩))
    | _ => exact .inr (.inl ⟨_, hd, by simpa [hd] using h⟩)
  · exact .inl ⟨why, hd, by simpa [hd] using h.symm⟩

/-- One clock cycle: reset, a word accepted in IDLE, an idle cycle, or a cycle of the transfer in flight. -/
theorem clock_cases {s t : State} (h : clock s = .next t) :
    (s.inp.rst = true ∧ t = loadReset s) ∨
    (s.inp.rst = false ∧ s.sqr.phase = .idle ∧ s.inp.cmdValid = true ∧ AcceptsWord s.inp.cmdWord s t) ∨
    (s.inp.rst = false ∧ s.sqr.phase = .idle ∧ s.inp.cmdValid = false ∧ t = s) ∨
    (s.inp.rst = false ∧ s.sqr.phase ≠ .idle ∧ t = transferCycle s) := by
  unfold clock at h
  rcases hr : s.inp.rst with _ | _
  · by_cases hp : s.sqr.phase = .idle
    · rcases hv : s.inp.cmdValid with _ | _
      · exact .inr (.inr (.inl ⟨rfl, hp, rfl, by simpa [hr, cmdReady, hp, hv] using h.symm⟩))
      · exact .inr (.inl ⟨rfl, hp, rfl, acceptWord_cases (by simpa [hr, cmdReady, hp, hv] using h)⟩)
    · exact .inr (.inr (.inr ⟨rfl, hp, by simpa [hr, cmdReady, hp] using h.symm⟩))
  · exact .inl ⟨rfl, by simpa [hr] using h.symm⟩

/-- One step of the machine: the configuration is legal, and from a state of the same engine (only its inputs driven, and the
move taken or left) the engine does one of four things. -/
theorem step_cases {s t : State} (h : step s = .next t) :
    s.cfg.legal = true ∧ ∃ s', SameEngine s s' ∧
      (t = s' ∨
       (t = loadReset s' ∧ ∃ m rest, s.host = m :: rest ∧ resetMove m = true) ∨
       (s.sqr.phase = .idle ∧ ∃ m w a b rest, s.host = m :: rest ∧ OffersWord m w a b ∧
          s'.inp.cmdArgA = a ∧ s'.inp.cmdArgB = b ∧ AcceptsWord w s' t) ∨
       (s.sqr.phase ≠ .idle ∧ t = transferCycle s')) := by
  unfold step at h
  split at h
  case isFalse => cases h
  case isTrue hl =>
    refine ⟨hl, ?_⟩
    unfold hostStep at h
    split at h
    case h_1 hh =>
      rcases clock_cases h with ⟨hr, -⟩ | ⟨-, -, hv, -⟩ | ⟨-, -, -, rfl⟩ | ⟨-, hp, rfl⟩
      · cases hr
      · cases hv
      · refine ⟨_, ?_, .inl rfl⟩; exact ⟨rfl, rfl, rfl, rfl⟩
      · exact ⟨driveIdle s, ⟨rfl, rfl, rfl, rfl⟩, .inr (.inr (.inr ⟨hp, rfl⟩))⟩
    case h_2 w a b rest hh =>
      split at h
      case isTrue hc =>
        have hp : s.sqr.phase = .idle := (cmdReady_iff.mp hc).2
        refine ⟨offered w a b rest s, ⟨rfl, rfl, rfl, rfl⟩,
          .inr (.inr (.inl ⟨hp, _, w, a, b, rest, hh, .inl rfl, rfl, rfl, ?_⟩))⟩
        unfold issue at h
        rcases hd : decode w with i | why
        · exact .inr (.inl ⟨i, hd, by simpa [hd] using h⟩)
        · exact .inl ⟨why, hd, by simpa [hd] using h.symm⟩
      case isFalse hc =>
        have hp : s.sqr.phase ≠ .idle := fun hp => hc (cmdReady_iff.mpr ⟨rfl, hp⟩)
        rcases clock_cases h with ⟨hr, -⟩ | ⟨-, hi, -, -⟩ | ⟨-, hi, -, -⟩ | ⟨-, -, rfl⟩
        · cases hr
        · exact absurd hi hp
        · exact absurd hi hp
        · exact ⟨driveCommand w a b s, ⟨rfl, rfl, rfl, rfl⟩, .inr (.inr (.inr ⟨hp, rfl⟩))⟩
    case h_3 w a b rest hh =>
      rcases clock_cases h with ⟨hr, -⟩ | ⟨-, hp, -, ha⟩ | ⟨-, -, hv, -⟩ | ⟨-, hp, rfl⟩
      · cases hr
      · exact ⟨offered w a b rest s, ⟨rfl, rfl, rfl, rfl⟩,
          .inr (.inr (.inl ⟨hp, _, w, a, b, rest, hh, .inr (.inl rfl), rfl, rfl, ha⟩))⟩
      · cases hv
      · exact ⟨offered w a b rest s, ⟨rfl, rfl, rfl, rfl⟩, .inr (.inr (.inr ⟨hp, rfl⟩))⟩
    case h_4 r v w a b rest hh =>
      rcases clock_cases h with ⟨hr, rfl⟩ | ⟨hr, hp, hv, ha⟩ | ⟨-, -, -, rfl⟩ | ⟨-, hp, rfl⟩
      · exact ⟨withHost rest (drivePorts r v w a b s), ⟨rfl, rfl, rfl, rfl⟩, .inr (.inl ⟨rfl, _, rest, hh, hr⟩)⟩
      · cases hr
        cases hv
        exact ⟨withHost rest (drivePorts false true w a b s), ⟨rfl, rfl, rfl, rfl⟩,
          .inr (.inr (.inl ⟨hp, _, w, a, b, rest, hh, .inr (.inr rfl), rfl, rfl, ha⟩))⟩
      · refine ⟨_, ?_, .inl rfl⟩; exact ⟨rfl, rfl, rfl, rfl⟩
      · exact ⟨withHost rest (drivePorts r v w a b s), ⟨rfl, rfl, rfl, rfl⟩, .inr (.inr (.inr ⟨hp, rfl⟩))⟩
    case h_5 rest hh =>
      rcases clock_cases h with ⟨hr, -⟩ | ⟨-, -, hv, -⟩ | ⟨-, -, -, rfl⟩ | ⟨-, hp, rfl⟩
      · cases hr
      · cases hv
      · refine ⟨_, ?_, .inl rfl⟩; exact ⟨rfl, rfl, rfl, rfl⟩
      · exact ⟨withHost rest (driveIdle s), ⟨rfl, rfl, rfl, rfl⟩, .inr (.inr (.inr ⟨hp, rfl⟩))⟩
    case h_6 rest hh =>
      rcases clock_cases h with ⟨-, rfl⟩ | ⟨hr, -⟩ | ⟨hr, -⟩ | ⟨hr, -⟩
      · exact ⟨withHost rest (driveReset s), ⟨rfl, rfl, rfl, rfl⟩, .inr (.inl ⟨rfl, _, rest, hh, rfl⟩)⟩
      all_goals cases hr
    all_goals
      cases h
      refine ⟨_, ?_, .inl rfl⟩; exact ⟨rfl, rfl, rfl, rfl⟩

/-- What one cycle of a transfer leaves alone: EXT, the thresholds and everything from outside but the SDI script. -/
theorem transferCycle_frame (s : State) :
    (transferCycle s).cfg = s.cfg ∧ (transferCycle s).inp = s.inp ∧ (transferCycle s).host = s.host ∧
      (transferCycle s).regs.ext = s.regs.ext ∧ (transferCycle s).regs.deb = s.regs.deb ∧
      (transferCycle s).regs.longth = s.regs.longth := by
  unfold transferCycle
  split
  case h_6 => unfold commitTransfer; split <;> exact ⟨rfl, rfl, rfl, rfl, rfl, rfl⟩
  all_goals repeat' split
  all_goals exact ⟨rfl, rfl, rfl, rfl, rfl, rfl⟩

/-- Before its COMMIT cycle a transfer writes no register (R110). -/
theorem transferCycle_regs {s : State} (h : s.sqr.phase ≠ .commit) : (transferCycle s).regs = s.regs := by
  unfold transferCycle
  split
  case h_6 hc => exact absurd hc h
  all_goals repeat' split
  all_goals rfl

end Sys2Proof.Machine
end

