-- ==== Sys2Proof/Laws/Clock.lean ====
section
/-! SUPPORT. Runs of clock cycles: they compose, a half-period holds the pins, and HALF cycles end it. Proofs about the waveform
go from one half-period to the next with `clocks_half` and never through single cycles. -/

namespace Sys2Proof.Machine

/-- A run of m + n cycles is a run of m and then one of n. -/
theorem clocks_add {m n : Nat} {s t : State} (h : clocks m s = .next t) : clocks (m + n) s = clocks n t := by
  induction m generalizing s with
  | zero => cases h; simp
  | succ m ih =>
    rw [Nat.succ_add]
    simp only [clocks] at h ⊢
    split at h
    case h_1 s' hs => exact ih h
    all_goals cases h

/-- A cycle of a transfer in flight, at the clock. -/
theorem clock_busy {s : State} (hr : s.inp.rst = false) (hp : s.sqr.phase ≠ .idle) :
    clock s = .next (transferCycle s) := by
  simp [clock, hr, cmdReady, hp]

/-- The state with HC set to n. -/
def atHc (n : Nat) (s : State) : State := { s with sqr := { s.sqr with hc := n } }

/-- The four phases whose pins are held for HALF cycles at a time. -/
def Shifting (s : State) : Prop := s.sqr.phase ≠ .idle ∧ s.sqr.phase ≠ .commit

/-- Before the last cycle of a half-period a cycle only counts. -/
theorem transferCycle_hold {s : State} (hp : Shifting s) (hc : s.sqr.hc + 1 < s.cfg.half) :
    transferCycle s = holdHalf s := by
  have hl : lastOfHalf s = false := by simp [lastOfHalf]; omega
  obtain ⟨h1, h2⟩ := hp
  unfold transferCycle
  split <;> simp_all

/-- j cycles inside one half-period: HC counts and nothing else changes. -/
theorem clocks_hold {s : State} {j : Nat} (hr : s.inp.rst = false) (hp : Shifting s) (h0 : s.sqr.hc = 0)
    (hj : j < s.cfg.half) : clocks j s = .next (atHc j s) := by
  induction j with
  | zero =>
    have : atHc 0 s = s := by rw [atHc, ← h0]
    rw [this]
    rfl
  | succ j ih =>
    rw [clocks_add (ih (by omega))]
    have hb : clock (atHc j s) = .next (transferCycle (atHc j s)) := clock_busy hr hp.1
    have ht : transferCycle (atHc j s) = holdHalf (atHc j s) := transferCycle_hold (s := atHc j s) hp hj
    simp only [clocks, hb, ht]
    rfl

/-- HALF cycles from the start of a half-period: its last cycle is what ends it. -/
theorem clocks_half {s : State} (hr : s.inp.rst = false) (hp : Shifting s) (h0 : s.sqr.hc = 0) (h1 : 1 ≤ s.cfg.half) :
    clocks s.cfg.half s = .next (transferCycle (atHc (s.cfg.half - 1) s)) := by
  have hh : clocks (s.cfg.half - 1) s = .next (atHc (s.cfg.half - 1) s) := clocks_hold hr hp h0 (by omega)
  have := clocks_add (n := 1) hh
  rw [Nat.sub_add_cancel h1] at this
  have hb : clock (atHc (s.cfg.half - 1) s) = .next (transferCycle (atHc (s.cfg.half - 1) s)) := clock_busy hr hp.1
  rw [this]
  simp only [clocks, hb]

end Sys2Proof.Machine
end

