-- ==== Sys2Proof/Laws/PerInstr.lean ====
section
/-! SUPPORT. A family of statements made per instruction: the fields that the encoder lays out in a command word (spec/30_encoding.md
R70, R71) are the fields that the decoder takes from it. -/

namespace Sys2Proof.Laws.EncodedFields

open Sys2Proof

/-- The word of `i` carries exactly the fields R71's format gives it. -/
def Statement (i : Instr) : Prop := fieldsOf (encode i) = fieldsFor i

/-- Taking the fields of a word made of fields gives them back. -/
theorem fieldsOf_wordOf (f : Fields) : fieldsOf (wordOf f) = f := by
  obtain ⟨op, line, val, mask⟩ := f
  simp only [fieldsOf, wordOf, Fields.mk.injEq]
  refine ⟨?_, ?_, ?_, ?_⟩
  · ext i hi
    interval_cases i <;> simp
  · ext i hi
    interval_cases i <;> simp
  · simp
  · ext i hi
    interval_cases i <;> simp

theorem nop : Statement .nop := fieldsOf_wordOf _

theorem sample : Statement .sample := fieldsOf_wordOf _

theorem tick : Statement .tick := fieldsOf_wordOf _

theorem classify (mask : Byte) : Statement (.classify mask) := fieldsOf_wordOf _

theorem setbit (line : Fin 8) (value : Bool) : Statement (.setbit line value) := fieldsOf_wordOf _

theorem configure : Statement .configure := fieldsOf_wordOf _

end Sys2Proof.Laws.EncodedFields
end

