-- ==== Sys2Proof/Laws/Transfer.lean ====
section
/-! SUPPORT. The transfer of spec/40_transport_sampler.md R101, half-period by half-period: the state at the start of each
half-period, and that HALF cycles lead from one to the next. -/

namespace Sys2Proof.Machine

section States
variable (s : State) (op : TransferOp)

/-- The start of the low half of bit k of PH_B, in the transfer that `beginTransfer op s` begins. -/
def outLow (k : Fin 8) : State :=
  { beginTransfer op s with
    sqr := { phase := .phB, curOp := op, ob := s.regs.ext, sh := s.sqr.sh, k := k, hc := 0 }
    pins := { sclk := false, latch := s.cfg.latchActive, sdo := outbit s.cfg.shiftOut s.regs.ext k } }

/-- The start of the high half of bit k of PH_B. -/
def outHigh (k : Fin 8) : State :=
  { outLow s op k with
    pins := { sclk := true, latch := s.cfg.latchActive, sdo := outbit s.cfg.shiftOut s.regs.ext k } }

/-- The start of PH_C. -/
def latchRelease : State :=
  { beginTransfer op s with
    sqr := { phase := .phC, curOp := op, ob := s.regs.ext, sh := s.sqr.sh, k := 0, hc := 0 }
    pins := Pins.reset s.cfg }

/-- SH after n samples. -/
def shAfter : Nat → Byte
  | 0 => s.sqr.sh
  | n + 1 =>
    if h : n < 8 then setLine (shAfter n) (serialPos s.cfg.shiftIn ⟨n, h⟩) (sdiLevel s n) else shAfter n

/-- The start of the low half of bit k of PH_D: k levels have been taken. -/
def inLow (k : Fin 8) : State :=
  { advanceSdi k.val (beginTransfer op s) with
    sqr := { phase := .phD, curOp := op, ob := s.regs.ext, sh := shAfter s k.val, k := k, hc := 0 }
    pins := Pins.reset s.cfg }

/-- The start of the high half of bit k of PH_D: k + 1 levels have been taken. -/
def inHigh (k : Fin 8) : State :=
  { advanceSdi (k.val + 1) (beginTransfer op s) with
    sqr := { phase := .phD, curOp := op, ob := s.regs.ext, sh := shAfter s (k.val + 1), k := k, hc := 0 }
    pins := { Pins.reset s.cfg with sclk := true } }

end States

variable {s : State} {op : TransferOp}

/-- After the eight samples SH is the assembled raw byte (R104), whatever it was before. -/
theorem shAfter_eight : shAfter s 8 = assemble s.cfg.shiftIn (fun k => sdiLevel s k.val) := by
  apply byte_ext
  intro j
  simp only [shAfter]
  cases s.cfg.shiftIn <;> revert j <;> simp [Fin.forall_fin_succ, serialPos]

theorem lastOfHalf_atHc {t : State} : lastOfHalf (atHc (t.cfg.half - 1) t) = true :=
  decide_eq_true (by show t.cfg.half ≤ t.cfg.half - 1 + 1; omega)

section Halves
variable (h1 : 1 ≤ s.cfg.half) (hr : s.inp.rst = false)
include h1 hr

theorem clocks_phA : clocks s.cfg.half (beginTransfer op s) = .next (outLow s op 0) := by
  have h := clocks_half (s := beginTransfer op s) hr ⟨by simp, by simp⟩ rfl h1
  have hl := lastOfHalf_atHc (t := beginTransfer op s)
  rw [beginTransfer_cfg] at h hl
  rw [h]
  simp only [transferCycle, hl]
  rfl

theorem clocks_outLow (k : Fin 8) : clocks s.cfg.half (outLow s op k) = .next (outHigh s op k) := by
  have h := clocks_half (s := outLow s op k) hr ⟨by simp [outLow], by simp [outLow]⟩ rfl h1
  have hl := lastOfHalf_atHc (t := outLow s op k)
  rw [show (outLow s op k).cfg = s.cfg from rfl] at h hl
  rw [h]
  simp only [transferCycle, hl]
  rfl

theorem clocks_outHigh (k : Fin 8) (hk : k ≠ 7) :
    clocks s.cfg.half (outHigh s op k) = .next (outLow s op (k + 1)) := by
  have h := clocks_half (s := outHigh s op k) hr ⟨by simp [outHigh, outLow], by simp [outHigh, outLow]⟩ rfl h1
  have hl := lastOfHalf_atHc (t := outHigh s op k)
  rw [show (outHigh s op k).cfg = s.cfg from rfl] at h hl
  rw [h]
  simp only [transferCycle, hl]
  simp [atHc, outHigh, outLow, hk]
  rfl

theorem clocks_outHigh_last : clocks s.cfg.half (outHigh s op 7) = .next (latchRelease s op) := by
  have h := clocks_half (s := outHigh s op 7) hr ⟨by simp [outHigh, outLow], by simp [outHigh, outLow]⟩ rfl h1
  have hl := lastOfHalf_atHc (t := outHigh s op 7)
  rw [show (outHigh s op 7).cfg = s.cfg from rfl] at h hl
  rw [h]
  simp only [transferCycle, hl]
  rfl

theorem clocks_phC : clocks s.cfg.half (latchRelease s op) = .next (inLow s op 0) := by
  have h := clocks_half (s := latchRelease s op) hr ⟨by simp [latchRelease], by simp [latchRelease]⟩ rfl h1
  have hl := lastOfHalf_atHc (t := latchRelease s op)
  rw [show (latchRelease s op).cfg = s.cfg from rfl] at h hl
  rw [h]
  have hd : inLow s op 0 =
      { beginTransfer op s with
        sqr := { phase := .phD, curOp := op, ob := s.regs.ext, sh := s.sqr.sh, k := 0, hc := 0 }
        pins := Pins.reset s.cfg } := by
    unfold inLow
    rw [show (0 : Fin 8).val = 0 from rfl, advanceSdi_zero]
    rfl
  rw [hd]
  simp only [transferCycle, hl]
  rfl

theorem clocks_inLow (k : Fin 8) : clocks s.cfg.half (inLow s op k) = .next (inHigh s op k) := by
  have h := clocks_half (s := inLow s op k) hr ⟨by simp [inLow], by simp [inLow]⟩ rfl h1
  have hl := lastOfHalf_atHc (t := inLow s op k)
  rw [show (inLow s op k).cfg = s.cfg from rfl] at h hl
  rw [h]
  simp only [transferCycle, hl]
  have hs : sdiLevel (atHc (s.cfg.half - 1) (inLow s op k)) 0 = sdiLevel s k.val :=
    sdiLevel_advance k.val 0 (beginTransfer op s)
  have hsh : shAfter s (k.val + 1) = setLine (shAfter s k.val) (serialPos s.cfg.shiftIn k) (sdiLevel s k.val) := by
    simp [shAfter]
  have hd : inHigh s op k =
      { advanceSdi 1 (advanceSdi k.val (beginTransfer op s)) with
        sqr := { phase := .phD, curOp := op, ob := s.regs.ext
                 sh := setLine (shAfter s k.val) (serialPos s.cfg.shiftIn k)
                   (sdiLevel (atHc (s.cfg.half - 1) (inLow s op k)) 0)
                 k := k, hc := 0 }
        pins := { Pins.reset s.cfg with sclk := true } } := by
    rw [advanceSdi_add, hs, ← hsh]
    rfl
  rw [hd]
  rfl

theorem clocks_inHigh (k : Fin 8) (hk : k ≠ 7) : clocks s.cfg.half (inHigh s op k) = .next (inLow s op (k + 1)) := by
  have h := clocks_half (s := inHigh s op k) hr ⟨by simp [inHigh], by simp [inHigh]⟩ rfl h1
  have hl := lastOfHalf_atHc (t := inHigh s op k)
  have hk' : (k + 1).val = k.val + 1 := by
    clear h hl
    revert k
    decide
  rw [show (inHigh s op k).cfg = s.cfg from rfl] at h hl
  rw [h]
  simp only [transferCycle, hl]
  simp [atHc, inHigh, inLow, hk, hk']
  rfl

theorem clocks_inHigh_last :
    clocks s.cfg.half (inHigh s op 7) = .next (runTransfer (beginTransfer op s)) := by
  have h := clocks_half (s := inHigh s op 7) hr ⟨by simp [inHigh], by simp [inHigh]⟩ rfl h1
  have hl := lastOfHalf_atHc (t := inHigh s op 7)
  rw [show (inHigh s op 7).cfg = s.cfg from rfl] at h hl
  rw [h]
  simp only [transferCycle, hl]
  have hx := shAfter_eight (s := s)
  simp [atHc, inHigh]
  simp [startCommit, runTransfer, hx]
  exact ⟨rfl, rfl, rfl⟩

end Halves

end Sys2Proof.Machine
end

