-- ==== Sys2Proof/Tests/Slice0.lean ====
section
/-! SUPPORT. The model's own tests, each with its source in spec/: words against the encodings, ill-formed terms, one step per
instruction on the vectors of spec/95_test_vectors.md; and, for every obligation with hypotheses, a witness that they can be met,
at the boundary values of its clauses. -/

namespace Sys2Proof.Tests

open Sys2Proof Sys2Proof.Machine

/-! ### Helpers -/

/-- The outcome is a next state of which `p` holds. -/
def ran (o : Host.Outcome State Fault Refusal) (p : State → Bool) : Bool :=
  match o with
  | .next t => p t
  | .fault _ => false
  | .refused _ => false

/-- The reset state with `now` driven and the eight levels listed that assemble to `raw` (R79). -/
def at' (now : Nat) (raw : Byte) : State :=
  { State.reset with inp := { State.reset.inp with now := now }, sdi := levelsOf .msbFirst raw }

/-- `s` with button b tracked from `start`. -/
def tracked (b : Button) (start : Nat) (s : State) : State :=
  { s with regs := { s.regs with track := b.constant, tstart := s.regs.tstart.put b start } }

/-- `s` with the host's script. -/
def script (moves : List HostMove) (s : State) : State := { s with host := moves }

/-- `s` with a word and its operand buses on the command port. -/
def port (w : CmdWord) (a b : Nat) (s : State) : State :=
  { s with inp := { s.inp with cmdValid := true, cmdWord := w, cmdArgA := a, cmdArgB := b } }

/-- `s` with another TW. -/
def withTW (tw : Nat) (s : State) : State := { s with cfg := { s.cfg with tw := tw } }

/-- `s` in another sentinel mode. -/
def zeroMode (s : State) : State := { s with cfg := { s.cfg with sentinel := .zero } }

/-- A transfer in flight at the high half of bit 7 of PH_B, with HALF = 1 (cycle 17 of vector T11). -/
def inFlight : State :=
  { State.reset with
    regs := { State.reset.regs with busy := true, ext := 0x81#8 }
    sqr := { phase := .phB, curOp := .sample, ob := 0x81#8, sh := 0, k := 7, hc := 0 }
    pins := { sclk := true, latch := false, sdo := true } }

/-- A TICK in its COMMIT cycle, with the raw byte 0xFF and Home tracked from 0. -/
def committing : State :=
  { tracked .home 0 State.reset with
    sqr := { phase := .commit, curOp := .tick, ob := 0, sh := 0xFF#8, k := 0, hc := 0 } }

/-! ### Decoding: words written out from the field layout of R70 (MASK, VAL, LINE, OP) and vectors E1 to E23 -/

theorem test_decode_nop : decode 0b0000000000000000#16 = .instr .nop := by decide

theorem test_decode_sample : decode 0b0000000000000001#16 = .instr .sample := by decide

theorem test_decode_tick : decode 0b0000000000000010#16 = .instr .tick := by decide

/-- MASK = 10000001. -/
theorem test_decode_classify : decode 0b1000000100000011#16 = .instr (.classify 0x81#8) := by decide

/-- VAL = 1, LINE = 011 (E9), and VAL = 0, LINE = 110. -/
theorem test_decode_setbit :
    decode 0b0000000010110100#16 = .instr (.setbit 3 true) ∧
      decode 0b0000000001100100#16 = .instr (.setbit 6 false) := by decide

theorem test_decode_configure : decode 0b0000000000000101#16 = .instr .configure := by decide

/-- E12 to E14, the OP values at both ends of the reserved range. -/
theorem test_decode_reservedOp :
    decode 0x0006#16 = .illegal .reservedOp ∧ decode 0x000F#16 = .illegal .reservedOp ∧
      decode 0xFFFF#16 = .illegal .reservedOp := by decide

/-- E15, E17, E18, E21, E22. -/
theorem test_decode_maskNotZero :
    decode 0x0100#16 = .illegal .maskNotZero ∧ decode 0x0101#16 = .illegal .maskNotZero ∧
      decode 0x0102#16 = .illegal .maskNotZero ∧ decode 0x0104#16 = .illegal .maskNotZero ∧
      decode 0x0105#16 = .illegal .maskNotZero := by decide

/-- E16, E20. -/
theorem test_decode_valNotZero :
    decode 0x0080#16 = .illegal .valNotZero ∧ decode 0x0083#16 = .illegal .valNotZero := by decide

/-- E19, E23. -/
theorem test_decode_lineNotZero :
    decode 0x0013#16 = .illegal .lineNotZero ∧ decode 0x0015#16 = .illegal .lineNotZero := by decide

/-- The SETBIT table of spec/95 section 2.1, four of its words, and E5. -/
theorem test_encode :
    encode (.setbit 0 true) = 0x0084#16 ∧ encode (.setbit 4 false) = 0x0044#16 ∧ encode (.setbit 7 true) = 0x00F4#16 ∧
      encode (.setbit 7 false) = 0x0074#16 ∧ encode (.classify 0xFF#8) = 0xFF03#16 := by decide

theorem test_decodeTableWord :
    decodeTableWord 16 0x0005 = some .configure ∧ decodeTableWord 16 0x0603 = some (.classify 0x06#8) ∧
      decodeTableWord 16 0x0006 = none := by decide

/-! ### WellFormed: an ill-formed term for each check, and the last value that passes it -/

theorem test_legal_thresholds :
    { Config.pnlCe02 with debReset := 2000 }.legal = false ∧ { Config.pnlCe02 with debReset := 1999 }.legal = true := by decide

theorem test_legal_width :
    { Config.pnlCe02 with longReset := 2 ^ 32 }.legal = false ∧ { Config.pnlCe02 with longReset := 2 ^ 32 - 1 }.legal = true ∧
      { Config.pnlCe02 with tw := 16, longReset := 2 ^ 16 }.legal = false := by decide

/-- R8's least TW; with 11 bits even a LONG_RESET that fits is refused. -/
theorem test_legal_tw :
    { Config.pnlCe02 with tw := 12 }.legal = true ∧ { Config.pnlCe02 with tw := 11 }.legal = false := by decide

theorem test_legal_half : { Config.pnlCe02 with half := 0 }.legal = false ∧ Config.pnlCe02.legal = true := by decide

theorem test_wf_mask :
    (Asm.classify (.number 256)).wellFormed 32 = false ∧ (Asm.classify (.number 255)).wellFormed 32 = true ∧
      (Asm.classify (.buttons [.ok, .up])).wellFormed 32 = true := by decide

theorem test_wf_setbit :
    (Asm.setbit 8 1).wellFormed 32 = false ∧ (Asm.setbit 7 2).wellFormed 32 = false ∧ (Asm.setbit 7 1).wellFormed 32 = true := by decide

theorem test_wf_configure :
    (Asm.configure (2 ^ 32) 1).wellFormed 32 = false ∧ (Asm.configure 0 (2 ^ 32)).wellFormed 32 = false ∧
      (Asm.configure (2 ^ 32 - 1) (2 ^ 32 - 1)).wellFormed 32 = true := by decide

theorem test_wf_lines :
    (Asm.lineOn 8).wellFormed 32 = false ∧ (Asm.lineOff 8).wellFormed 32 = false ∧ (Asm.lineOn 7).wellFormed 32 = true ∧
      (Asm.lineOff 7).wellFormed 32 = true := by decide

theorem test_wf_directives :
    (Asm.atNow (2 ^ 32)).wellFormed 32 = false ∧ (Asm.atSdi 256).wellFormed 32 = false ∧
      (Asm.readReg (.tstart 8)).wellFormed 32 = false ∧ (Asm.word 0x10000).wellFormed 32 = false := by decide

/-! ### One step per instruction -/

/-- K1. -/
theorem test_nop_clears_lastErr :
    ran (exec .nop (setLastErr 1#2 State.reset)) (fun t => decide (t = State.reset)) = true := by decide

/-- T4: the draws 1,1,1,1,1,1,0,1 under MSB_FIRST. -/
theorem test_sample_msbFirst :
    ran (exec .sample { State.reset with sdi := [true, true, true, true, true, true, false, true] })
      (fun t => t.regs.rawin == 0xFD#8 && t.regs.pressed == 0x02#8) = true := by decide

/-- T4: the same draws under LSB_FIRST. -/
theorem test_sample_lsbFirst :
    ran (exec .sample { State.reset with
        cfg := { Config.pnlCe02 with shiftIn := .lsbFirst }, sdi := [true, true, true, true, true, true, false, true] })
      (fun t => t.regs.rawin == 0xBF#8 && t.regs.pressed == 0x40#8) = true := by decide

/-- S2, release: Home tracked from 0 and released at 500. -/
theorem test_tick_short :
    ran (exec .tick (tracked .home 0 (at' 500 0xFF)))
      (fun t => t.regs.short == 0x80#8 && t.regs.long == 0 && t.regs.track == 0 && t.regs.pressed == 0) = true := by decide

/-- C15, first TICK: all eight begin at 7. -/
theorem test_tick_begin :
    ran (exec .tick (at' 7 0x00)) (fun t => t.regs.track == 0xFF#8 && readPort t 0x17#5 == 7 && readPort t 0x10#5 == 7) = true := by
  decide

/-- C2 and C3: a press of 50 is discarded and one of 51 is short. -/
theorem test_classify_low_boundary :
    ran (exec (.classify 0) (tracked .right 100 (at' 150 0))) (fun t => t.regs.short == 0 && t.regs.long == 0) = true ∧
    ran (exec (.classify 0) (tracked .right 100 (at' 151 0))) (fun t => t.regs.short == 1 && t.regs.long == 0) = true := by
  decide

/-- C4 and C5: a press of 1999 is short and one of 2000 is long. -/
theorem test_classify_high_boundary :
    ran (exec (.classify 0) (tracked .right 100 (at' 2099 0))) (fun t => t.regs.short == 1 && t.regs.long == 0) = true ∧
    ran (exec (.classify 0) (tracked .right 100 (at' 2100 0))) (fun t => t.regs.short == 0 && t.regs.long == 1) = true := by
  decide

/-- C9 and C10 at TW = 32, and the same press with TW = 12, which wraps there: 0xFF0 to 0x30 is 0x40 (R137). -/
theorem test_duration_wraps :
    bandOf 50 2000 (subTW Config.pnlCe02 0x20 0xFFFFFFF0) = .discarded ∧
      bandOf 50 2000 (subTW Config.pnlCe02 0x30 0xFFFFFFF0) = .short ∧
      subTW { Config.pnlCe02 with tw := 12 } 0x30 0xFF0 = 0x40 := by decide

/-- X2. -/
theorem test_setbit_sets :
    ran (exec (.setbit 3 true) { State.reset with regs := { State.reset.regs with ext := 0x01#8 } })
      (fun t => t.regs.ext == 0x09#8) = true := by decide

/-- X3. -/
theorem test_setbit_clears :
    ran (exec (.setbit 0 false) { State.reset with regs := { State.reset.regs with ext := 0x09#8 } })
      (fun t => t.regs.ext == 0x08#8) = true := by decide

/-- K10: an accepted CONFIGURE drops the track. -/
theorem test_configure_accepted :
    ran (exec .configure (port 0x0005#16 10 20 (tracked .right 100 State.reset)))
      (fun t => t.regs.deb == 10 && t.regs.longth == 20 && t.regs.track == 0 && t.regs.tstart.right == 0 &&
        t.regs.lastErr == 0) = true := by decide

/-- K3: equal thresholds are rejected. -/
theorem test_configure_rejected :
    ran (exec .configure (port 0x0005#16 100 100 State.reset))
      (fun t => t.regs.deb == 50 && t.regs.longth == 2000 && readPort t 0 == 4) = true := by decide

/-- K12: TICK's opcode with MASK = 1 starts no transfer. -/
theorem test_illegal_word :
    ran (step (script [.command 0x0102#16 0 0] State.reset)) (fun t => readPort t 0 == 2 && t.sqr == State.reset.sqr) = true := by
  decide

/-- The step that takes a READ: P-R1 at address 7. -/
theorem test_step_read :
    ran (step (script [.read 0x07#5] State.reset)) (fun t => rdData t == 0x000007D0) = true := by decide

/-! ### The clock: vectors T11, T12, K14 -/

/-- T11, cycle 0 to cycle 1: the acceptance asserts the latch and sets BUSY. -/
theorem test_clock_accept :
    ran (clock (port 0x0001#16 0 0 State.reset))
      (fun t => shapeOf t == ⟨.phA, false, false, false⟩ && t.regs.busy && !cmdReady t) = true := by decide

/-- T11, cycle 17 to cycle 18: after bit 7 of PH_B, the latch is released in PH_C. -/
theorem test_clock_phC : ran (clock inFlight) (fun t => shapeOf t == ⟨.phC, true, false, false⟩) = true := by decide

/-- T12: reset in mid-transfer. -/
theorem test_clock_reset :
    ran (step (script [.rst] inFlight))
      (fun t => t.sqr == Sequencer.reset && t.regs.rawin == 0xFF#8 && shapeOf t == ⟨.idle, true, false, false⟩) = true := by decide

/-- A SETBIT offered in mid-transfer in a cycle with `rst` = 1: the reset state, the word not taken (R230, R203). -/
theorem test_offer_under_reset :
    ran (step (script [.cycle true true 0x0084#16 0 0] inFlight))
      (fun t => t.sqr == Sequencer.reset && t.regs == Regs.reset Config.pnlCe02) = true := by decide

/-- K14: a word offered for one cycle while `cmd_ready` = 0 is not accepted. -/
theorem test_clock_offer_busy :
    ran (step (script [.offer 0x0084#16 0 0] inFlight)) (fun t => t.regs.ext == 0x81#8 && t.regs.lastErr == 0) = true := by decide

/-- A TICK's commit: the pass runs over ~SH at the `now` of the cycle. -/
theorem test_clock_commit :
    ran (clock { committing with inp := { committing.inp with now := 500 } })
      (fun t => t.regs.short == 0x80#8 && t.sqr.phase == .idle && !t.regs.busy) = true := by decide

/-! ### Witnesses: the hypotheses of each obligation can be met -/

theorem witness_EncodeOfDecodeIsTheWord :
    decode 0x0603#16 = .instr (.classify 0x06#8) ∧ decode 0x00F4#16 = .instr (.setbit 7 true) := by decide

theorem witness_DecoderFollowsTheOpcodeMap :
    decode 0xFF03#16 = .instr (.classify 0xFF#8) ∧ (decode 0x0102#16).isLegal = false := by decide

theorem witness_AssemblerLinesAreTheirMoves :
    (Asm.classify (.number 255)).wellFormed 32 = true ∧ (Asm.classify (.number 0)).wellFormed 32 = true ∧
    (Asm.setbit 7 1).wellFormed 32 = true ∧ (Asm.setbit 0 0).wellFormed 32 = true ∧
    (Asm.configure (2 ^ 32 - 2) (2 ^ 32 - 1)).wellFormed 32 = true ∧ (Asm.atNow (2 ^ 32 - 1)).wellFormed 32 = true ∧
    (Asm.atSdi 255).wellFormed 32 = true ∧ (Asm.readReg (.tstart 7)).wellFormed 32 = true ∧ (Asm.word 0xFFFF).wellFormed 32 = true := by
  decide

theorem witness_StepRunsTheDecodedCommand :
    Config.pnlCe02.legal = true ∧ (script [.command 0x0002#16 0 0] State.reset).sqr.phase = .idle ∧
      (script [.command 0x0002#16 0 0] State.reset).host = .command 0x0002#16 0 0 :: [] ∧ decode 0x0002#16 = .instr .tick ∧
      (decode 0x0102#16).isLegal = false := by
  decide

theorem witness_FetchedWordRunsNext :
    State.reset.cfg.legal = true ∧ decodeTableWord 16 0x0084 = some (.setbit 0 true) ∧ inFlight.cfg.legal = true := by decide

theorem witness_HostMovesDriveThePorts :
    State.reset.cfg.legal = true ∧ State.reset.host = [] ∧ (script [.idle] inFlight).host = .idle :: [] ∧
      (script [.rst] inFlight).host = .rst :: [] ∧ (script [.offer 0x0084#16 0 0] inFlight).host = .offer 0x0084#16 0 0 :: [] ∧
      (script [.now 7] inFlight).host = .now 7 :: [] ∧ (script [.sdi [true]] inFlight).host = .sdi [true] :: [] ∧
      (script [.read 0x1F#5] inFlight).host = .read 0x1F#5 :: [] ∧
      (script [.cycle true true 0x0005#16 1 2] inFlight).host = .cycle true true 0x0005#16 1 2 :: [] := by decide

theorem witness_HostCanDriveEveryPortLevel :
    inFlight.cfg.legal = true ∧
      ran (step { inFlight with host := portMoves { Inputs.quiet with rst := true, cmdValid := true, now := 9 } ++ [.idle] })
        (fun t => t.inp.now == 9) = true := by decide

theorem witness_WordOfferedUnderResetIsNotTaken :
    inFlight.cfg.legal = true ∧ (script [.cycle true true 0x0084#16 0 0] inFlight).host = .cycle true true 0x0084#16 0 0 :: [] ∧
      (script [.cycle true false 0x0000#16 0 0] State.reset).host = .cycle true false 0x0000#16 0 0 :: [] := by decide

theorem witness_IllegalWordOnlySetsLastErr :
    (∀ r ∈ opcodeMap, r.matchesWord 0x0006#16 = false) ∧ (∀ r ∈ opcodeMap, r.matchesWord 0x0105#16 = false) ∧
      (port 0x0105#16 10 20 State.reset).inp.cmdValid = true ∧ (port 0x0105#16 10 20 State.reset).inp.rst = false ∧
      (port 0x0105#16 10 20 State.reset).inp.cmdWord = 0x0105#16 ∧ (port 0x0105#16 10 20 State.reset).sqr.phase = .idle := by
  decide

theorem witness_OnlyIllegalConfigurationsStop :
    (∃ s : State, s.cfg.tw = 12 ∧
      (s.cfg.debReset < s.cfg.longReset ∧ s.cfg.longReset < 2 ^ s.cfg.tw ∧ 1 ≤ s.cfg.half ∧ 12 ≤ s.cfg.tw)) ∧
    (∃ s : State, s.cfg.debReset = s.cfg.longReset) ∧ (∃ s : State, s.cfg.longReset = 2 ^ s.cfg.tw) ∧
    (∃ s : State, s.cfg.half = 0) ∧ (∃ s : State, s.cfg.tw = 11) :=
  ⟨⟨withTW 12 State.reset, rfl, by decide⟩, ⟨{ State.reset with cfg := { Config.pnlCe02 with debReset := 2000 } }, rfl⟩,
    ⟨{ State.reset with cfg := { Config.pnlCe02 with longReset := 2 ^ 32 } }, by decide⟩,
    ⟨{ State.reset with cfg := { Config.pnlCe02 with half := 0 } }, rfl⟩, ⟨withTW 11 State.reset, rfl⟩⟩

theorem witness_CommandHandshake :
    (State.reset.inp.rst = false ∧ cmdReady (port 0x0001#16 0 0 State.reset) = true ∧
      (port 0x0001#16 0 0 State.reset).inp.cmdValid = true ∧ decode 0x0001#16 = .instr .sample) ∧
    (decode 0x0000#16 = .instr .nop ∧ Instr.nop ≠ .sample ∧ Instr.nop ≠ .tick) ∧ (decode 0x0101#16).isLegal = false ∧
    (cmdReady State.reset = true ∧ State.reset.inp.cmdValid = false) ∧
    (inFlight.inp.rst = false ∧ inFlight.sqr.phase ≠ .idle) ∧ (committing.inp.rst = false ∧ committing.sqr.phase = .commit) ∧
    cmdReady inFlight = false ∧ cmdReady (driveReset State.reset) = false := by decide

theorem witness_CommandWaitsForReady :
    inFlight.cfg.legal = true ∧ inFlight.sqr.phase ≠ .idle ∧
      (script [.command 0x0084#16 0 0] inFlight).host = .command 0x0084#16 0 0 :: [] := by decide

theorem witness_SetbitWritesOneLine : (7 : Fin 8) ≠ 0 := by decide

theorem witness_EveryRawByteIsPossible : (Instr.sample = .sample ∨ Instr.sample = .tick) ∧ (Instr.tick = .sample ∨ Instr.tick = .tick) := by
  decide

theorem witness_SampleTakesOneSnapshot :
    State.reset.cfg.shiftIn = .msbFirst ∧
      ({ State.reset with cfg := { Config.pnlCe02 with shiftIn := .lsbFirst } } : State).cfg.shiftIn = .lsbFirst := by decide

/-- The four transitions, the two modes, a begin at 0 and not at 0, and a release at each end of the three bands (d = 50, 51,
1999, 2000). -/
theorem witness_ClassifyTakesEachButtonsTransition :
    (tracking State.reset .home = false ∧ bitOf 0x80#8 .home = true) ∧
    (tracking (tracked .home 0 State.reset) .home = true ∧ bitOf 0x80#8 .home = true) ∧
    (tracking State.reset .right = false ∧ bitOf 0x80#8 .right = false) ∧
    (tracking (tracked .home 0 State.reset) .home = true ∧ bitOf 0x7F#8 .home = false ∧
      (tracked .home 0 State.reset).regs.tstart.get .home < 2 ^ State.reset.cfg.tw) ∧
    (at' 0 0).inp.now % 2 ^ 32 = 0 ∧ (at' (2 ^ 32 + 50) 0).inp.now % 2 ^ 32 = 50 ∧
    50 = (50 + 2 ^ 32 - 0) % 2 ^ 32 ∧ 51 = (51 + 2 ^ 32 - 0) % 2 ^ 32 ∧
    1999 = (1999 + 2 ^ 32 - 0) % 2 ^ 32 ∧ 2000 = (2000 + 2 ^ 32 - 0) % 2 ^ 32 ∧
    State.reset.cfg.sentinel = .explicit ∧ (zeroMode State.reset).cfg.sentinel = .zero := by decide

/-- A TICK whose snapshot has a button pressed or released, IDLE or TRACKING, in each combination. -/
theorem witness_TickSamplesAndClassifies :
    ran (exec .tick (tracked .home 0 (at' 500 0x7E)))
      (fun t => bitOf t.regs.pressed .home && tracking (tracked .home 0 (at' 500 0x7E)) .home &&
        bitOf t.regs.pressed .right && !tracking (tracked .home 0 (at' 500 0x7E)) .right &&
        !bitOf t.regs.pressed .ok && !tracking (tracked .home 0 (at' 500 0x7E)) .ok) = true ∧
    ran (exec .tick (tracked .home 0 (at' 500 0xFF)))
      (fun t => !bitOf t.regs.pressed .home && tracking (tracked .home 0 (at' 500 0xFF)) .home) = true ∧
    (tracked .home 0 (at' 500 0xFF)).regs.tstart.get .home < 2 ^ State.reset.cfg.tw := by decide

/-- The last accepted pair and the first rejected one. -/
theorem witness_ConfigureSetsThresholdsAndClears :
    (port 5 19 20 State.reset).inp.cmdArgA % 2 ^ 32 < (port 5 19 20 State.reset).inp.cmdArgB % 2 ^ 32 ∧
      (port 5 20 20 State.reset).inp.cmdArgB % 2 ^ 32 ≤ (port 5 20 20 State.reset).inp.cmdArgA % 2 ^ 32 := by decide

theorem witness_RejectedConfigureChangesNothingElse :
    ran (exec .configure (port 5 20 20 State.reset)) (fun t => t.regs.lastErr == 2#2) = true ∧
      ran (exec .configure (port 5 19 20 State.reset)) (fun t => t.regs.lastErr != 2#2) = true := by decide

/-- The bands at their boundaries, and a tracked button that is released. -/
theorem witness_ThreeBandsPartitionEveryDuration :
    50 < 2000 ∧ bandOf 50 2000 50 = .discarded ∧ bandOf 50 2000 51 = .short ∧
      bandOf 50 2000 1999 = .short ∧ bandOf 50 2000 2000 = .long ∧
      tracking (tracked .home 0 State.reset) .home = true ∧ bitOf 0x00#8 .home = false := by decide

theorem witness_PassIsTheLoopInAnyOrder :
    [Button.home, .stop, .down, .start, .left, .up, .ok, .right].Nodup ∧
      ∀ b : Button, b ∈ [Button.home, .stop, .down, .start, .left, .up, .ok, .right] :=
  ⟨by decide, fun b => by cases b <;> decide⟩

/-- Two states and two masks that differ elsewhere and agree on Right. -/
theorem witness_ButtonsAreClassifiedIndependently :
    (tracked .home 7 State.reset).cfg.sentinel = State.reset.cfg.sentinel ∧
      (tracked .home 7 State.reset).cfg.tw = State.reset.cfg.tw ∧
      (tracked .home 7 State.reset).regs.deb = State.reset.regs.deb ∧
      (tracked .home 7 State.reset).regs.longth = State.reset.regs.longth ∧
      bitOf (tracked .home 7 State.reset).regs.track .right = bitOf State.reset.regs.track .right ∧
      (tracked .home 7 State.reset).regs.tstart.get .right = State.reset.regs.tstart.get .right ∧
      bitOf 0x81#8 .right = bitOf 0x01#8 .right ∧ tracked .home 7 State.reset ≠ State.reset := by decide

theorem witness_InvariantsAfterEveryPass :
    TrackInv (tracked .home 7 State.reset) ∧ TrackInv (zeroMode State.reset) ∧
      State.reset.cfg.sentinel = .explicit ∧ (zeroMode State.reset).cfg.sentinel = .zero ∧
      bitOf (trackView (classifyPass 0x00#8 9 (tracked .home 7 State.reset))) .home = false :=
  ⟨fun b => by cases b <;> decide, show (0 : Byte) = 0 from rfl, rfl, rfl, by decide⟩

/-- A press at 0 (EXPLICIT) or at 1 (ZERO), held in two passes and then released. -/
theorem witness_HeldPressIsTimedFromItsFirstPass :
    (tracking State.reset .home = false ∧ bitOf 0x80#8 .home = true ∧ (State.reset.cfg.sentinel = .zero → (0 : Nat) ≠ 0) ∧
      (∀ p ∈ [((0x80#8, 10) : Byte × Nat), (0x81#8, 20)], bitOf p.1 .home = true) ∧ bitOf 0x00#8 .home = false) ∧
    (tracking (zeroMode State.reset) .home = false ∧ ((zeroMode State.reset).cfg.sentinel = .zero → (1 : Nat) ≠ 0)) := by
  refine ⟨⟨by decide, by decide, by decide, ?_, by decide⟩, by decide⟩
  intro p hp
  simp only [List.mem_cons, List.not_mem_nil, or_false] at hp
  rcases hp with rfl | rfl <;> decide

/-- A pass that gives an event, and a step of the machine after which an event is there that was not there before. -/
theorem witness_EventsOnlyOnRelease :
    bitOf (classifyPass 0 51 (tracked .home 0 State.reset)).regs.short .home = true ∧
    bitOf (classifyPass 0 2000 (tracked .home 0 State.reset)).regs.long .home = true ∧
    ran (step (script [.command 0x0003#16 0 0] (tracked .home 0 (at' 51 0))))
      (fun t => bitOf t.regs.short .home && !bitOf (tracked .home 0 (at' 51 0)).regs.short .home) = true ∧
    ran (step (script [.command 0x0003#16 0 0] (tracked .home 0 (at' 2000 0))))
      (fun t => bitOf t.regs.long .home && !bitOf (tracked .home 0 (at' 2000 0)).regs.long .home) = true := by decide

theorem witness_DurationIsTheModularDifference :
    MonotonicSince 7 7 ∧ MonotonicSince 0 (2 ^ 32 - 1) ∧ 6 < 7 ∧ 7 < 2 ^ Config.pnlCe02.tw ∧
      2 ^ 32 - 1 < 2 ^ Config.pnlCe02.tw := by
  unfold MonotonicSince
  decide

theorem witness_OnlySetbitOrResetChangesExt :
    ran (step (script [.command 0x0084#16 0 0] State.reset)) (fun t => t.regs.ext != State.reset.regs.ext) = true ∧
    ran (step (script [.offer 0x00F4#16 0 0] State.reset)) (fun t => t.regs.ext != State.reset.regs.ext) = true ∧
    ran (step (script [.cycle false true 0x00F4#16 0 0] State.reset)) (fun t => t.regs.ext != State.reset.regs.ext) = true ∧
    ran (step (script [.cycle true true 0x00F4#16 0 0] inFlight)) (fun t => t.regs.ext != inFlight.regs.ext) = true ∧
    ran (step (script [.rst] inFlight)) (fun t => t.regs.ext != inFlight.regs.ext) = true := by decide

theorem witness_ThresholdChangesEndEveryTrack :
    ran (step (script [.command 0x0005#16 19 20] (tracked .home 7 State.reset))) (fun t => t.regs.deb != State.reset.regs.deb) =
      true ∧
    ran (step (script [.offer 0x0005#16 50 51] State.reset)) (fun t => t.regs.longth != State.reset.regs.longth) = true ∧
    ran (step (script [.cycle false true 0x0005#16 50 51] State.reset)) (fun t => t.regs.longth != State.reset.regs.longth) = true ∧
    ran (step (script [.rst] { State.reset with regs := { State.reset.regs with deb := 0 } })) (fun t => t.regs.deb != 0) = true := by
  decide

/-- A command that leaves the events, a rejected and an accepted CONFIGURE at the boundary, two passes with an event, and an
illegal word. -/
theorem witness_EventsLastOnePass :
    (exec .nop State.reset = .next (setLastErr errNone State.reset)) ∧
    ((∃ t, exec .configure (port 5 20 20 State.reset) = .next t) ∧
      (port 5 20 20 State.reset).inp.cmdArgB % 2 ^ 32 ≤ (port 5 20 20 State.reset).inp.cmdArgA % 2 ^ 32) ∧
    ((∃ t, exec .configure (port 5 19 20 State.reset) = .next t) ∧
      (port 5 19 20 State.reset).inp.cmdArgA % 2 ^ 32 < (port 5 19 20 State.reset).inp.cmdArgB % 2 ^ 32) ∧
    ran (exec (.classify 0) (tracked .home 0 (at' 51 0))) (fun t => bitOf t.regs.short .home) = true ∧
    ran (exec .tick (tracked .home 0 (at' 2000 0xFF))) (fun t => bitOf t.regs.long .home) = true ∧
    (decode 0x0006#16).isLegal = false :=
  ⟨rfl, ⟨⟨_, rfl⟩, by decide⟩, ⟨⟨_, rfl⟩, by decide⟩, by decide, by decide, by decide⟩

theorem witness_CommandsWriteOnlyTheirRegisters :
    (∃ t, exec .sample State.reset = .next t) ∧
    ran (exec .configure (port 5 20 20 State.reset)) (fun t => t.regs.lastErr == 2#2) = true ∧
    (∃ t, exec (.setbit 7 true) State.reset = .next t) := ⟨⟨_, rfl⟩, by decide, ⟨_, rfl⟩⟩

theorem witness_LastErrCodes :
    (∃ t, exec .configure (port 5 20 20 State.reset) = .next t) ∧ (decode 0x0006#16).isLegal = false ∧
    ran (step (setLastErr 3#2 State.reset)) (fun t => t.regs.lastErr == 3#2) = true := ⟨⟨_, rfl⟩, by decide, by decide⟩

/-- Both modes, and the unused addresses at the ends of their two ranges. -/
theorem witness_ReadPortMap :
    State.reset.cfg.sentinel = .explicit ∧ (zeroMode State.reset).cfg.sentinel = .zero ∧
      (9 ≤ (0x09#5).toNat ∧ (0x09#5).toNat ≤ 15) ∧ (9 ≤ (0x0F#5).toNat ∧ (0x0F#5).toNat ≤ 15) ∧ 24 ≤ (0x18#5).toNat ∧
      24 ≤ (0x1F#5).toNat := by decide

/-- The widest values a state with the invariant holds, at the least TW. -/
theorem witness_ReadDataFitsThePort :
    (withTW 12 State.reset).cfg.legal = true ∧
      EngineInv { withTW 12 State.reset with regs := { State.reset.regs with longth := 2 ^ 12 - 1 } } :=
  ⟨by decide, by unfold SnapshotInv; decide, by unfold ThresholdInv; decide,
    ⟨by decide, by decide, fun b => by cases b <;> decide⟩, fun b => by cases b <;> decide, by unfold EventInv; decide,
    by unfold StatusInv; decide, fun h => absurd rfl h, rfl, ⟨rfl, rfl⟩⟩

theorem witness_ReadsHaveNoSideEffect :
    inFlight.cfg.legal = true ∧ (script [.read 0x1F#5] inFlight).host = .read 0x1F#5 :: [] := by decide

/-- The first and the last cycle of the range, and an address that is not 0. -/
theorem witness_ReadsDuringBusyAreTheOldValues :
    1 ≤ State.reset.cfg.half ∧ State.reset.inp.rst = false ∧ 0 ≤ 34 * State.reset.cfg.half ∧ 34 ≤ 34 * State.reset.cfg.half ∧
      (0x01#5) ≠ 0x00#5 := by decide

theorem witness_ResetLoadsTheResetState :
    inFlight.cfg.legal = true ∧ (driveReset inFlight).inp.rst = true ∧ Inputs.quiet.rst = false := by decide

/-- A step from a state with the invariant that begins a transfer. -/
theorem witness_StepKeepsTheInvariant :
    EngineInv (script [.offer 0x0002#16 0 0] State.reset) ∧
      ∃ t, step (script [.offer 0x0002#16 0 0] State.reset) = .next t ∧ t.sqr.phase = .phA :=
  ⟨⟨by unfold SnapshotInv; decide, by unfold ThresholdInv; decide,
    ⟨by decide, by decide, fun b => by cases b <;> decide⟩, fun b => by cases b <;> decide, by unfold EventInv; decide,
    by unfold StatusInv; decide, fun h => absurd rfl h, rfl, ⟨rfl, rfl⟩⟩, _, rfl, rfl⟩

/-- A reachable state in mid-transfer. -/
theorem witness_ReachableStatesSatisfyTheInvariant : ∃ t, Reachable t ∧ t.sqr.phase = .phA :=
  ⟨_, .step _ _ (.reset Config.pnlCe02 Inputs.quiet [.offer 0x0001#16 0 0] [] 0 (by decide)) rfl, rfl⟩

/-- The shortest half-period and a longer one, at the first and the last cycle of a half. -/
theorem witness_TransferWaveform :
    (State.reset.cfg.half = 1 ∧ State.reset.inp.rst = false ∧ 0 < 1) ∧
    (({ State.reset with cfg := { Config.pnlCe02 with half := 3 } } : State).cfg.half = 3 ∧ 1 ≤ 3 ∧ 2 < 3) := by decide

theorem witness_CollapsedTransferIsTheClockedTransfer :
    (port 0x0001#16 0 0 State.reset).inp.cmdValid = true ∧ (port 0x0001#16 0 0 State.reset).sqr.phase = .idle ∧
      decode (port 0x0001#16 0 0 State.reset).inp.cmdWord = .instr .sample ∧
      decode (port 0x0002#16 0 0 State.reset).inp.cmdWord = .instr .tick ∧ 1 ≤ State.reset.cfg.half ∧
      (port 0x0001#16 0 0 State.reset).inp.rst = false := by decide

theorem witness_BusyLastsThirtyFourHalvesAndOne :
    1 ≤ State.reset.cfg.half ∧ State.reset.inp.rst = false ∧ 0 < 34 * State.reset.cfg.half + 1 ∧
      34 < 34 * State.reset.cfg.half + 1 := by decide

theorem witness_TickReadsNowInItsCommitCycle :
    (inFlight.inp.rst = false ∧ inFlight.sqr.phase ≠ .idle ∧ inFlight.sqr.phase ≠ .commit) ∧
    (1 ≤ (port 0x0002#16 0 0 State.reset).cfg.half ∧ (port 0x0002#16 0 0 State.reset).inp.rst = false ∧
      (port 0x0002#16 0 0 State.reset).inp.cmdValid = true ∧ (port 0x0002#16 0 0 State.reset).sqr.phase = .idle ∧
      decode (port 0x0002#16 0 0 State.reset).inp.cmdWord = .instr .tick) := by decide

theorem witness_SetbitThenTransferSendsTheNewByte :
    1 ≤ State.reset.cfg.half ∧ State.reset.inp.rst = false ∧ serialPos State.reset.cfg.shiftOut 0 = 7 := by decide

end Sys2Proof.Tests
end

section
/-! PROOFS, the state (spec/10_state.md). The reset state: what R36 gives for every configuration is a lemma about `Regs.reset`,
and this hardware's values follow by `rfl`. -/

namespace Sys2Proof.Machine

@[simp] theorem get_tstart_reset (c : Config.Params) (b : Button) : (Regs.reset c).tstart.get b = 0 := by
  cases b <;> rfl

@[simp] theorem bitOf_track_reset (c : Config.Params) (b : Button) : bitOf (Regs.reset c).track b = false :=
  bitOf_zero b

/-- The first relation of R36; RAWIN = 0xFF is chosen for it (decision D13). -/
theorem pressed_reset_eq_not_rawin (c : Config.Params) : (Regs.reset c).pressed = ~~~(Regs.reset c).rawin := by
  simp [Regs.reset]

theorem short_and_long_reset (c : Config.Params) : (Regs.reset c).short &&& (Regs.reset c).long = 0 :=
  BitVec.zero_and

/-- R175 under reset: whatever the phase, `rst` = 1 holds `cmd_ready` at 0. -/
@[simp] theorem cmdReady_driveReset (s : State) : cmdReady (driveReset s) = false := rfl

/-- R175 after reset: with `rst` = 0 a sequencer in its reset state is ready. -/
theorem cmdReady_of_sqr_reset {s : State} (hrst : s.inp.rst = false) (hsqr : s.sqr = Sequencer.reset) :
    cmdReady s = true :=
  cmdReady_iff.mpr ⟨hrst, by rw [hsqr]; rfl⟩

/-- Settles O44: the fixed values are those of `Config.pnlCe02`; the rest holds at reset in every configuration. -/
theorem resetValues : Obligations.ResetValues := by
  have hstart : ∀ b : Button, State.reset.regs.tstart.get b = 0 := get_tstart_reset Config.pnlCe02
  have htrack : ∀ b : Button, bitOf State.reset.regs.track b = false := bitOf_track_reset Config.pnlCe02
  have hready : cmdReady State.reset = true := cmdReady_of_sqr_reset rfl rfl
  exact ⟨hstart, rfl, rfl, rfl, rfl, rfl, rfl, rfl, rfl, rfl, rfl, rfl, rfl, cmdReady_driveReset _, hready,
    pressed_reset_eq_not_rawin _, short_and_long_reset _, htrack⟩

end Sys2Proof.Machine
end

section
/-! PROOFS, the read port (spec/20_memory.md). One lemma per kind of address that R51 lists; the plain registers need none, their
addresses read them by `rfl`. -/

namespace Sys2Proof.Machine

/-- R30: the two fields of STATUS do not overlap, so the word is their sum. -/
theorem statusWord_eq_add (r : Regs) : statusWord r = 2 * r.lastErr.toNat + r.busy.toNat := by
  have hbusy : r.busy.toNat < 2 ^ 1 := r.busy.toNat_lt
  rw [statusWord, ← Nat.shiftLeft_add_eq_or_of_lt hbusy, Nat.shiftLeft_eq, Nat.pow_one, Nat.mul_comm]

/-- R26: in EXPLICIT mode TRACK is read as it is stored. -/
theorem trackView_of_explicit {s : State} (h : s.cfg.sentinel = .explicit) : trackView s = s.regs.track := by
  rw [trackView, h]

/-- R26: in ZERO mode a button tracks exactly when its TSTART is not the sentinel 0. -/
theorem tracking_iff_of_zero {s : State} (h : s.cfg.sentinel = .zero) (b : Button) :
    tracking s b = true ↔ s.regs.tstart.get b ≠ 0 := by
  rw [tracking, h]
  exact bne_iff_ne

/-- Bit `b.bit` of the read of TRACK, as a number, is `tracking`, in both modes. -/
theorem testBit_readPort_track (s : State) (b : Button) :
    (readPort s 0x08#5).testBit b.bit.val = tracking s b :=
  bitOf_trackView s b

/-- R51: TSTART[b] is at 0x10 plus the number of b's bit. -/
theorem readPort_tstart (s : State) (b : Button) :
    readPort s (0x10#5 + BitVec.ofNat 5 b.bit.val) = s.regs.tstart.get b := by
  cases b <;> rfl

/-- R51: the addresses 0x09 to 0x0F and 0x18 to 0x1F read 0: none is among the 17 that the map names. -/
theorem readPort_unused (s : State) (a : ReadAddr) (h : (9 ≤ a.toNat ∧ a.toNat ≤ 15) ∨ 24 ≤ a.toNat) :
    readPort s a = 0 := by
  unfold readPort
  split
  case h_18 => rfl
  all_goals omega

/-- Settles O40: address by address; TRACK through `tracking`, with its two modes apart. -/
theorem readPortMap : Obligations.ReadPortMap := by
  intro s
  have htrack : s.cfg.sentinel = .explicit → readPort s 0x08#5 = s.regs.track.toNat :=
    fun h => congrArg BitVec.toNat (trackView_of_explicit h)
  have hderived : s.cfg.sentinel = .zero → readPort s 0x08#5 < 2 ^ 8 ∧
      ∀ b : Button, (readPort s 0x08#5).testBit b.bit.val = true ↔ s.regs.tstart.get b ≠ 0 :=
    fun h => ⟨(trackView s).isLt, fun b => by rw [testBit_readPort_track, tracking_iff_of_zero h]⟩
  exact ⟨statusWord_eq_add _, rfl, rfl, rfl, rfl, rfl, rfl, rfl, htrack, hderived, readPort_tstart s, readPort_unused s, rfl⟩

end Sys2Proof.Machine
end

section
/-! PROOFS, the encoding (spec/30_encoding.md). The button bit map of R75: what a button's constant selects of a mask. -/

namespace Sys2Proof.Machine

/-- A button's constant has one bit set, so it is not the empty mask. -/
theorem constant_ne_zero (b : Button) : b.constant ≠ 0#8 := by
  cases b <;> decide

/-- A mask ANDed with a button's constant keeps that button's bit alone (R75). -/
theorem and_constant (m : Byte) (b : Button) : m &&& b.constant = if bitOf m b then b.constant else 0#8 :=
  BitVec.and_twoPow m b.bit.val

/-- A button's bit is set exactly when the mask and the button's constant have a bit in common. -/
theorem bitOf_iff_and_constant_ne_zero (m : Byte) (b : Button) : bitOf m b = true ↔ m &&& b.constant ≠ 0 := by
  rw [and_constant]
  cases bitOf m b with
  | true => simp [constant_ne_zero]
  | false => simp

/-- Settles O7: the constants are computed; `Button.ofBit` and `Button.bit` are inverse to each other; a mask bit is its AND with
the constant. -/
theorem buttonMapIsTheSpecs : Obligations.ButtonMapIsTheSpecs := by
  have hselect : ∀ (m : Byte) (b : Button),
      bitOf m b = m.getLsbD b.bit.val ∧ (bitOf m b = true ↔ m &&& b.constant ≠ 0) :=
    fun m b => ⟨rfl, bitOf_iff_and_constant_ne_zero m b⟩
  exact ⟨rfl, rfl, rfl, rfl, rfl, rfl, rfl, rfl, Button.ofBit_bit, Button.bit_ofBit, hselect⟩

end Sys2Proof.Machine
end

section
/-! PROOFS, the transport and the sampler (spec/40_transport_sampler.md). The serial orders: `serialPos` says where the k-th bit on a
line stands in its byte, 7 - k or k by its definition; what is proved once for both orders is that assembling puts each level there
and that the listed levels are read from there. -/

namespace Sys2Proof.Machine

/-- R104: the k-th sampled level lands at its serial position in the raw byte. -/
theorem getLsbD_assemble_serialPos (o : Config.BitOrder) (s : Fin 8 → Bool) (k : Fin 8) :
    (assemble o s).getLsbD (serialPos o k).val = s k := by
  rw [BitVec.getLsbD_eq_getElem (serialPos o k).isLt, getElem_assemble, serialPos_serialPos]

/-- R79: the k-th level listed for a raw byte is the bit at the serial position of k. -/
theorem getD_levelsOf (o : Config.BitOrder) (raw : Byte) (k : Fin 8) :
    (levelsOf o raw).getD k.val false = raw.getLsbD (serialPos o k).val := by
  have hlevel := getElem_levelsOf o raw [] k
  rw [List.append_nil] at hlevel
  rw [List.getD_eq_getElem?_getD, hlevel, Option.getD_some]

/-- Settles O9: `outbit` reads the serial position by definition, `assemble` writes it in either order, and the levels of a byte
are its bits at the serial positions, which assemble to it. -/
theorem serialOrders : Obligations.SerialOrders := by
  have houtbit : ∀ (ob : Byte) (k : Fin 8),
      outbit .msbFirst ob k = ob.getLsbD (7 - k.val) ∧ outbit .lsbFirst ob k = ob.getLsbD k.val :=
    fun _ _ => ⟨rfl, rfl⟩
  have hlands : ∀ (s : Fin 8 → Bool) (k : Fin 8),
      (assemble .msbFirst s).getLsbD (7 - k.val) = s k ∧ (assemble .lsbFirst s).getLsbD k.val = s k :=
    fun s k => ⟨getLsbD_assemble_serialPos .msbFirst s k, getLsbD_assemble_serialPos .lsbFirst s k⟩
  have hlevels : ∀ (o : Config.BitOrder) (raw : Byte),
      assemble o (fun k => (levelsOf o raw).getD k.val false) = raw := fun o raw => by
    rw [funext (getD_levelsOf o raw), assemble_levels]
  exact ⟨houtbit, hlands, fun o raw => ⟨length_levelsOf o raw, hlevels o raw⟩⟩

end Sys2Proof.Machine
end

section
/-! PROOFS, the classifier (spec/41_classifier.md), one pass. The bands of R133 by their boundaries, the pass transition by
transition (R132), and a button's state after a pass in each mode (R131, R139); then the statements about a single pass. -/

namespace Sys2Proof.Machine

section Bands
variable (deb lng d : Nat)

theorem bandOf_eq_discarded_iff : bandOf deb lng d = .discarded ↔ d ≤ deb := by
  unfold bandOf
  split_ifs <;> simp [*]

theorem bandOf_eq_short_iff : bandOf deb lng d = .short ↔ deb < d ∧ d < lng := by
  unfold bandOf
  split_ifs <;> simp <;> omega

theorem bandOf_eq_long_iff : bandOf deb lng d = .long ↔ deb < d ∧ lng ≤ d := by
  unfold bandOf
  split_ifs <;> simp <;> omega

end Bands

@[simp] theorem isTracking_beginTrack (mode : Config.SentinelMode) (stored : Bool) (t : Nat) :
    isTracking mode (beginTrack mode stored t).track (beginTrack mode stored t).tstart =
      (decide (mode = .explicit) || t != 0) := by
  cases mode <;> rfl

@[simp] theorem isTracking_endTrack (mode : Config.SentinelMode) (stored : Bool) (band : Band) :
    isTracking mode (endTrack mode stored band).track (endTrack mode stored band).tstart = false := by
  cases mode <;> rfl

@[simp] theorem beginTrack_tstart (mode : Config.SentinelMode) (stored : Bool) (t : Nat) :
    (beginTrack mode stored t).tstart = t := by
  cases mode <;> rfl

@[simp] theorem beginTrack_short (mode : Config.SentinelMode) (stored : Bool) (t : Nat) :
    (beginTrack mode stored t).short = false := by
  cases mode <;> rfl

@[simp] theorem beginTrack_long (mode : Config.SentinelMode) (stored : Bool) (t : Nat) :
    (beginTrack mode stored t).long = false := by
  cases mode <;> rfl

@[simp] theorem endTrack_tstart (mode : Config.SentinelMode) (stored : Bool) (band : Band) :
    (endTrack mode stored band).tstart = 0 := by
  cases mode <;> rfl

@[simp] theorem endTrack_short (mode : Config.SentinelMode) (stored : Bool) (band : Band) :
    (endTrack mode stored band).short = decide (band = .short) := by
  cases mode <;> rfl

@[simp] theorem endTrack_long (mode : Config.SentinelMode) (stored : Bool) (band : Band) :
    (endTrack mode stored band).long = decide (band = .long) := by
  cases mode <;> rfl

section Transitions
variable {m : Byte} {t : Nat} {s : State} {b : Button}

/-- R132: an IDLE button in the mask begins a track. -/
theorem passButton_begin (ht : tracking s b = false) (hm : bitOf m b = true) :
    passButton s m t b = beginTrack s.cfg.sentinel (bitOf s.regs.track b) t := by
  rw [passButton_cases, ht, hm]

/-- R132: a TRACKING button that left the mask is released and its duration classified. -/
theorem passButton_release (ht : tracking s b = true) (hm : bitOf m b = false) :
    passButton s m t b = endTrack s.cfg.sentinel (bitOf s.regs.track b)
      (bandOf s.regs.deb s.regs.longth (subTW s.cfg t (s.regs.tstart.get b))) := by
  rw [passButton_cases, ht, hm]

/-- R132: a button whose state agrees with its mask bit has no transition. -/
theorem passButton_noTransition (h : tracking s b = bitOf m b) :
    passButton s m t b = ⟨bitOf s.regs.track b, s.regs.tstart.get b, false, false⟩ := by
  rw [passButton_cases, h]
  cases bitOf m b <;> rfl

theorem tracking_classifyPass_of_noTransition (h : tracking s b = bitOf m b) :
    tracking (classifyPass m t s) b = tracking s b := by
  rw [tracking_classifyPass, passButton_noTransition h, tracking]

/-- A button's state after a pass: outside the mask it is IDLE; in the mask it is TRACKING, unless in ZERO mode its track
begins at the sentinel time 0. -/
theorem tracking_classifyPass_eq (m : Byte) (t : Nat) (s : State) (b : Button) :
    tracking (classifyPass m t s) b =
      (bitOf m b && (tracking s b || decide (s.cfg.sentinel = .explicit) || t != 0)) := by
  rcases ht : tracking s b with _ | _ <;> rcases hm : bitOf m b with _ | _
  · rw [tracking_classifyPass_of_noTransition (ht.trans hm.symm), ht]
    rfl
  · rw [tracking_classifyPass, passButton_begin ht hm, isTracking_beginTrack]
    rfl
  · rw [tracking_classifyPass, passButton_release ht hm, isTracking_endTrack]
    rfl
  · rw [tracking_classifyPass_of_noTransition (ht.trans hm.symm), ht]
    rfl

theorem passButton_short_iff_of_release (ht : tracking s b = true) (hm : bitOf m b = false) :
    (passButton s m t b).short = true ↔
      bandOf s.regs.deb s.regs.longth (subTW s.cfg t (s.regs.tstart.get b)) = .short := by
  simp [passButton_release ht hm]

theorem passButton_long_iff_of_release (ht : tracking s b = true) (hm : bitOf m b = false) :
    (passButton s m t b).long = true ↔
      bandOf s.regs.deb s.regs.longth (subTW s.cfg t (s.regs.tstart.get b)) = .long := by
  simp [passButton_release ht hm]

/-- R133: a button with an event was held longer than DEB. -/
theorem deb_lt_of_passButton_event (h : (passButton s m t b).short = true ∨ (passButton s m t b).long = true) :
    s.regs.deb < subTW s.cfg t (s.regs.tstart.get b) := by
  obtain ⟨ht, hm, -⟩ := passButton_event m t s b h
  rw [passButton_short_iff_of_release ht hm, passButton_long_iff_of_release ht hm, bandOf_eq_short_iff,
    bandOf_eq_long_iff] at h
  exact h.elim And.left And.left

/-- R133: the bands exclude each other, so no button has both events. -/
theorem passButton_short_and_long (m : Byte) (t : Nat) (s : State) (b : Button) :
    ((passButton s m t b).short && (passButton s m t b).long) = false := by
  rcases hshort : (passButton s m t b).short with _ | _
  · rfl
  · obtain ⟨ht, hm, -⟩ := passButton_event m t s b (.inl hshort)
    rw [passButton_short_iff_of_release ht hm] at hshort
    simp [passButton_release ht hm, hshort]

/-- A button that a pass leaves IDLE has TSTART 0, if that held before the pass (R139). -/
theorem passButton_tstart_of_idle (hinv : tracking s b = false → s.regs.tstart.get b = 0)
    (hidle : tracking (classifyPass m t s) b = false) : (passButton s m t b).tstart = 0 := by
  rcases ht : tracking s b with _ | _ <;> rcases hm : bitOf m b with _ | _
  · rw [passButton_noTransition (ht.trans hm.symm)]
    exact hinv ht
  · have ⟨_, hzero⟩ : s.cfg.sentinel ≠ .explicit ∧ t = 0 := by simpa [tracking_classifyPass_eq, ht, hm] using hidle
    rw [passButton_begin ht hm, beginTrack_tstart, hzero]
  · rw [passButton_release ht hm, endTrack_tstart]
  · rw [tracking_classifyPass_of_noTransition (ht.trans hm.symm), ht] at hidle
    cases hidle

end Transitions

/-- R26 in both modes: an IDLE button's TSTART is 0. -/
theorem tstart_eq_zero_of_idle {s : State} (hinv : TrackInv s) {b : Button} (hidle : tracking s b = false) :
    s.regs.tstart.get b = 0 := by
  rcases hmode : s.cfg.sentinel with _ | _
  · rw [TrackInv, hmode] at hinv
    rw [tracking, hmode] at hidle
    exact hinv b hidle
  · rwa [← Bool.not_eq_true, tracking_iff_of_zero hmode, not_not] at hidle

/-- R130: a pass writes these four registers. -/
theorem classifyPass_regs_eq (m : Byte) (t : Nat) (s : State) :
    (classifyPass m t s).regs =
      { s.regs with
        track := (classifyPass m t s).regs.track, tstart := (classifyPass m t s).regs.tstart
        short := (classifyPass m t s).regs.short, long := (classifyPass m t s).regs.long } := rfl

/-- Settles O27: the bands by their boundaries; a released button's event bits by its band. -/
theorem threeBandsPartitionEveryDuration : Obligations.ThreeBandsPartitionEveryDuration := by
  refine ⟨fun deb lng d hlt => ⟨bandOf_eq_discarded_iff .., bandOf_eq_short_iff .., ?_, ?_, ?_⟩, ?_⟩
  · rw [bandOf_eq_long_iff]
    omega
  · exact (bandOf_eq_discarded_iff ..).mpr le_rfl
  · exact (bandOf_eq_long_iff ..).mpr ⟨hlt, le_rfl⟩
  · intro m t s b ht hm
    rw [bitOf_classifyPass_short, bitOf_classifyPass_long]
    exact ⟨passButton_short_iff_of_release ht hm, passButton_long_iff_of_release ht hm⟩

/-- Settles O31: every button's state agrees with its bit of TRACK, so no button has a transition. -/
theorem passOverTrackHasNoTransitions : Obligations.PassOverTrackHasNoTransitions := by
  intro t s
  have hstay (b : Button) : passButton s (trackView s) t b = ⟨bitOf s.regs.track b, s.regs.tstart.get b, false, false⟩ :=
    passButton_noTransition (bitOf_trackView s b).symm
  have htrack : (classifyPass (trackView s) t s).regs.track = s.regs.track := mask_ext (by simp [hstay])
  have htstart : (classifyPass (trackView s) t s).regs.tstart = s.regs.tstart := PerButton.ext_get (by simp [hstay])
  have hshort : (classifyPass (trackView s) t s).regs.short = 0 := mask_ext (by simp [hstay])
  have hlong : (classifyPass (trackView s) t s).regs.long = 0 := mask_ext (by simp [hstay])
  rw [classifyPass_regs_eq, htrack, htstart, hshort, hlong]

/-- Settles O30: items 1 to 3 bit by bit from `passButton_event`, items 4 and 5 from `tracking_classifyPass_eq`. -/
theorem invariantsAfterEveryPass : Obligations.InvariantsAfterEveryPass := by
  intro m t s hinv
  have hevent (b : Button) : ((passButton s m t b).short || (passButton s m t b).long) = true →
      tracking s b = true ∧ bitOf m b = false := fun h => by
    obtain ⟨ht, hm, -⟩ := passButton_event m t s b (Bool.or_eq_true _ _ |>.mp h)
    exact ⟨ht, hm⟩
  refine ⟨mask_ext fun b => ?_, mask_ext fun b => ?_, mask_ext fun b => ?_, fun hmode => mask_ext fun b => ?_,
    fun hmode b => ?_, fun b hidle => ?_⟩
  · simp [passButton_short_and_long]
  · cases he : (passButton s m t b).short || (passButton s m t b).long with
    | false => simp [he]
    | true => simp [(hevent b he).2]
  · cases he : (passButton s m t b).short || (passButton s m t b).long with
    | false => simp [he]
    | true => simp [bitOf_trackView, (hevent b he).1]
  · simp [bitOf_trackView, tracking_classifyPass_eq, hmode]
  · simp [bitOf_trackView, tracking_classifyPass_eq, hmode]
  · rw [bitOf_trackView] at hidle
    rw [get_classifyPass_tstart]
    exact passButton_tstart_of_idle (tstart_eq_zero_of_idle hinv) hidle

end Sys2Proof.Machine
end

section
/-! PROOFS, the classifier (spec/41_classifier.md), CLASSIFY: its word, and each button's transition in the command. -/

namespace Sys2Proof.Machine

/-- R71, R73: MASK stands above OP = 3, with LINE and VAL 0 between them; the fields do not overlap, so the word is a sum. -/
theorem toNat_encode_classify (m : Byte) : (encode (.classify m)).toNat = m.toNat * 256 + 3 := by
  have hfields : (encode (.classify m)).toNat = m.toNat <<< 8 ||| 3 := by
    have hmask : m.toNat < 65536 := m.isLt.trans (by decide)
    have hshifted : m.toNat <<< 8 < 65536 := by have := m.isLt; omega
    simp [encode, wordOf, fieldsFor, Nat.mod_eq_of_lt hmask, Nat.mod_eq_of_lt hshifted]
  rw [hfields, ← Nat.shiftLeft_add_eq_or_of_lt (by decide), Nat.shiftLeft_eq]

theorem decode_encode_classify (m : Byte) : decode (encode (.classify m)) = .instr (.classify m) := by
  have hfields : fieldsOf (encode (.classify m)) = fieldsFor (.classify m) := Laws.EncodedFields.classify m
  rw [decode, hfields]
  rfl

/-- Settles O22: CLASSIFY is a pass at the `now` of the acceptance cycle, and the four transitions of R132 are the cases of a
button's state and mask bit. -/
theorem classifyTakesEachButtonsTransition : Obligations.ClassifyTakesEachButtonsTransition := by
  refine ⟨fun m => ⟨toNat_encode_classify m, decode_encode_classify m⟩, ?_⟩
  intro m s t htime
  obtain rfl : t = passTime s := htime
  refine ⟨setLastErr errNone (classifyPass m (passTime s) s), rfl, fun b => ?_, rfl, ⟨rfl, rfl⟩,
    ⟨rfl, rfl, rfl, rfl, rfl⟩⟩
  have htracking : tracking (setLastErr errNone (classifyPass m (passTime s) s)) b =
      (bitOf m b && (tracking s b || decide (s.cfg.sentinel = .explicit) || passTime s != 0)) :=
    tracking_classifyPass_eq m (passTime s) s b
  rw [bitOf_trackView, htracking]
  simp only [setLastErr_regs, get_classifyPass_tstart, bitOf_classifyPass_short, bitOf_classifyPass_long]
  refine ⟨fun ht hm => ?_, fun ht hm => ?_, fun ht hm => ?_, fun ht hm hfits d hd => ?_, trivial⟩
  · cases hmode : s.cfg.sentinel <;> simp [passButton_begin ht hm, ht, hm]
  · simp [passButton_noTransition (ht.trans hm.symm), ht, hm]
  · simp [passButton_noTransition (ht.trans hm.symm), ht, hm]
  · have hduration : subTW s.cfg (passTime s) (s.regs.tstart.get b) = d := (subTW_eq_mod hfits).trans hd.symm
    rw [passButton_short_iff_of_release ht hm, passButton_long_iff_of_release ht hm, hduration, bandOf_eq_short_iff,
      bandOf_eq_long_iff]
    simp [passButton_release ht hm, hm]

end Sys2Proof.Machine
end

section
/-! PROOFS, the classifier (spec/41_classifier.md), runs of passes: a press is timed from the pass that began it (R141). -/

namespace Sys2Proof.Machine

/-- Button b is pressed in `u` since time `t0`, in an engine configured as `s` and with its thresholds. -/
structure PressedSince (s : State) (b : Button) (t0 : Nat) (u : State) : Prop where
  cfg : u.cfg = s.cfg
  deb : u.regs.deb = s.regs.deb
  longth : u.regs.longth = s.regs.longth
  tracking : tracking u b = true
  tstart : u.regs.tstart.get b = t0

variable {s u : State} {b : Button} {t0 : Nat}

/-- A press begins at the time of the pass that first has the button in its mask; in ZERO mode not at the sentinel time 0. -/
theorem pressedSince_begin {m : Byte} (ht : tracking s b = false) (hm : bitOf m b = true)
    (hzero : s.cfg.sentinel = .zero → t0 ≠ 0) : PressedSince s b t0 (classifyPass m t0 s) where
  cfg := rfl
  deb := rfl
  longth := rfl
  tracking := by
    rw [tracking_classifyPass_eq, ht, hm]
    cases hmode : s.cfg.sentinel with
    | explicit => rfl
    | zero => simp [hzero hmode]
  tstart := by rw [get_classifyPass_tstart, passButton_begin ht hm, beginTrack_tstart]

/-- A pass with the button in its mask keeps the press and its time. -/
theorem PressedSince.pass {m : Byte} {t : Nat} (hu : PressedSince s b t0 u) (hm : bitOf m b = true) :
    PressedSince s b t0 (classifyPass m t u) where
  cfg := hu.cfg
  deb := hu.deb
  longth := hu.longth
  tracking := by rw [tracking_classifyPass_eq, hu.tracking, hm]; rfl
  tstart := by rw [get_classifyPass_tstart, passButton_noTransition (hu.tracking.trans hm.symm), hu.tstart]

/-- So does any number of such passes. -/
theorem PressedSince.passes {held : List (Byte × Nat)} (hu : PressedSince s b t0 u)
    (hheld : ∀ p ∈ held, bitOf p.1 b = true) :
    PressedSince s b t0 (held.foldl (fun r p => classifyPass p.1 p.2 r) u) := by
  induction held generalizing u with
  | nil => exact hu
  | cons p ps ih =>
    obtain ⟨hp, hps⟩ := List.forall_mem_cons.mp hheld
    exact ih (hu.pass hp) hps

/-- Settles O32: the press is kept through the holding passes by induction on their number, and the release reads its time. -/
theorem heldPressIsTimedFromItsFirstPass : Obligations.HeldPressIsTimedFromItsFirstPass := by
  rintro s b t0 t1 m0 m1 held hidle hm0 hzero hheld hm1 u _ hu rfl
  have hpress : PressedSince s b t0 u := hu ▸ (pressedSince_begin hidle hm0 hzero).passes hheld
  have hshort := passButton_short_iff_of_release (t := t1) hpress.tracking hm1
  have hlong := passButton_long_iff_of_release (t := t1) hpress.tracking hm1
  rw [hpress.cfg, hpress.deb, hpress.longth, hpress.tstart] at hshort hlong
  rw [tracking_classifyPass_eq, hm1, get_classifyPass_tstart, passButton_release hpress.tracking hm1, endTrack_tstart,
    bitOf_classifyPass_short, bitOf_classifyPass_long]
  exact ⟨hpress.tracking, hpress.tstart, rfl, rfl, hshort, hlong⟩

end Sys2Proof.Machine
end

section
/-! PROOFS, the classifier (spec/41_classifier.md), events at every step (R140): a step keeps SHORT and LONG, clears them, or
writes them by one pass over the classifier as it stood. -/

namespace Sys2Proof.Machine

/-- What a step from `s` to `t` can do to SHORT and LONG. -/
inductive EventEffect (s t : State) : Prop
  | keeps (hshort : t.regs.short = s.regs.short) (hlong : t.regs.long = s.regs.long)
  | clears (hshort : t.regs.short = 0) (hlong : t.regs.long = 0)
  | pass (m : Byte) (time : Nat) (hcfg : t.cfg = s.cfg)
      (htrack : t.regs.track = (classifyPass m time s).regs.track)
      (htstart : t.regs.tstart = (classifyPass m time s).regs.tstart)
      (hshort : t.regs.short = (classifyPass m time s).regs.short)
      (hlong : t.regs.long = (classifyPass m time s).regs.long)

/-- SHORT or LONG has b's bit set in `t` and not in `s`. -/
def NewEvent (s t : State) (b : Button) : Prop :=
  (bitOf t.regs.short b = true ∧ bitOf s.regs.short b = false) ∨
    (bitOf t.regs.long b = true ∧ bitOf s.regs.long b = false)

variable {s s' t : State}

/-- Only a pass gives a new event, and it took the button from TRACKING to IDLE. -/
theorem EventEffect.released_of_newEvent {b : Button} (h : EventEffect s t) (hnew : NewEvent s t b) :
    tracking s b = true ∧ tracking t b = false := by
  cases h with
  | keeps hshort hlong =>
    rw [NewEvent, hshort, hlong] at hnew
    obtain ⟨hset, hclear⟩ | ⟨hset, hclear⟩ := hnew <;> cases hset.symm.trans hclear
  | clears hshort hlong =>
    rw [NewEvent, hshort, hlong] at hnew
    simp at hnew
  | pass m time hcfg htrack htstart hshort hlong =>
    rw [NewEvent, hshort, hlong, bitOf_classifyPass_short, bitOf_classifyPass_long] at hnew
    obtain ⟨ht, -, hidle⟩ := passButton_event m time s b (hnew.imp And.left And.left)
    have hsame : tracking t b = tracking (classifyPass m time s) b := by
      simp only [tracking, hcfg, htrack, htstart, classifyPass_cfg]
    exact ⟨ht, hsame.trans hidle⟩

theorem SameEngine.classifyPass_regs (h : SameEngine s s') (m : Byte) (time : Nat) :
    (classifyPass m time s').regs = (classifyPass m time s).regs := by
  obtain ⟨hcfg, hregs, -, -⟩ := h
  simp only [classifyPass, passButton, hcfg, hregs]

/-- The engine's inputs have no part in what happens to the events. -/
theorem EventEffect.of_sameEngine (h : SameEngine s s') (he : EventEffect s' t) : EventEffect s t := by
  have ⟨hcfg, hregs, _, _⟩ := h
  cases he with
  | keeps hshort hlong => exact .keeps (hregs ▸ hshort) (hregs ▸ hlong)
  | clears hshort hlong => exact .clears hshort hlong
  | pass m time hc htrack htstart hshort hlong =>
    rw [h.classifyPass_regs] at htrack htstart hshort hlong
    exact .pass m time (hc.trans hcfg) htrack htstart hshort hlong

/-- Of the commands, TICK and CLASSIFY make a pass, an accepted CONFIGURE clears the events, and the others keep them. -/
theorem exec_eventEffect {i : Instr} (h : exec i s = .next t) : EventEffect s t := by
  cases i with
  | nop | sample | setbit line value =>
    cases h
    exact .keeps rfl rfl
  | tick =>
    cases h
    exact .pass _ (passTime s) rfl rfl rfl rfl rfl
  | classify mask =>
    cases h
    exact .pass mask (passTime s) rfl rfl rfl rfl rfl
  | configure =>
    change execConfigure s = .next t at h
    unfold execConfigure at h
    split at h
    case isTrue => cases h; exact .clears rfl rfl
    case isFalse => cases h; exact .keeps rfl rfl

theorem AcceptsWord.eventEffect {w : CmdWord} (h : AcceptsWord w s t) : EventEffect s t := by
  obtain ⟨why, -, rfl⟩ | ⟨i, -, hexec⟩ | ⟨-, rfl⟩ | ⟨-, rfl⟩ := h
  · exact .keeps rfl rfl
  · exact exec_eventEffect hexec
  · exact .keeps rfl rfl
  · exact .keeps rfl rfl

/-- A transfer in flight touches the events only in the COMMIT cycle of a TICK. -/
theorem transferCycle_eventEffect (s : State) : EventEffect s (transferCycle s) := by
  by_cases hphase : s.sqr.phase = .commit
  · rw [transferCycle, hphase]
    change EventEffect s (commitTransfer s)
    unfold commitTransfer
    cases s.sqr.curOp with
    | sample => exact .keeps rfl rfl
    | tick => exact .pass _ (passTime s) rfl rfl rfl rfl rfl
  · exact .keeps (by rw [transferCycle_regs hphase]) (by rw [transferCycle_regs hphase])

theorem step_eventEffect (h : step s = .next t) : EventEffect s t := by
  obtain ⟨-, s', hsame, hstep⟩ := step_cases h
  apply EventEffect.of_sameEngine hsame
  obtain rfl | ⟨rfl, -⟩ | ⟨-, m, w, a, b, rest, -, -, -, -, haccept⟩ | ⟨-, rfl⟩ := hstep
  · exact .keeps rfl rfl
  · exact .clears rfl rfl
  · exact haccept.eventEffect
  · exact transferCycle_eventEffect s'

/-- Settles O33: for a pass by the transition of a button with an event, for a step by what it can do to SHORT and LONG. -/
theorem eventsOnlyOnRelease : Obligations.EventsOnlyOnRelease := by
  refine ⟨fun m t s b h => ?_, fun s t b hstep hnew => (step_eventEffect hstep).released_of_newEvent hnew⟩
  rw [bitOf_classifyPass_short, bitOf_classifyPass_long] at h
  obtain ⟨ht, hm, hidle⟩ := passButton_event m t s b h
  exact ⟨ht, hm, hidle, deb_lt_of_passButton_event h⟩

end Sys2Proof.Machine
end

section
/-! PROOFS, the extender (spec/42_extender.md), SETBIT: its word, and what the command does to EXT (R161). -/

namespace Sys2Proof.Machine

/-- R71, R73: in format S, MASK is 0, so the word is OP = 4, LINE and VAL, each at its place. -/
theorem encode_setbit (line : Fin 8) (value : Bool) :
    encode (.setbit line value) =
      (0x0004#16 ||| (BitVec.ofNat 16 line.val <<< 4)) ||| (BitVec.ofNat 16 value.toNat <<< 7) := by
  have hline : (BitVec.ofFin line : BitVec 3).setWidth 16 = BitVec.ofNat 16 line.val :=
    (BitVec.ofNat_toNat 16 (BitVec.ofFin line : BitVec 3)).symm
  have hvalue : (BitVec.ofBool value).setWidth 16 = BitVec.ofNat 16 value.toNat := by cases value <;> rfl
  have hmask : (0 : Byte).setWidth 16 <<< 8 = 0#16 := rfl
  have hop : (0x4#4).setWidth 16 = 0x0004#16 := rfl
  rw [encode, wordOf, fieldsFor, hline, hvalue, hmask, hop, BitVec.zero_or, BitVec.or_comm _ 0x0004#16,
    BitVec.or_assoc, BitVec.or_comm (BitVec.ofNat 16 line.val <<< 4)]

theorem decode_encode_setbit (line : Fin 8) (value : Bool) :
    decode (encode (.setbit line value)) = .instr (.setbit line value) := by
  have hfields : fieldsOf (encode (.setbit line value)) = fieldsFor (.setbit line value) :=
    Laws.EncodedFields.setbit line value
  rw [decode, hfields]
  rfl

/-- Settles O19: the two words by their fields; the command is `writeLine` and LAST_ERR <- 0, and the written byte bit by bit is
`getLsbD_setLine`. -/
theorem setbitWritesOneLine : Obligations.SetbitWritesOneLine := by
  refine ⟨fun line value => ⟨encode_setbit line value, decode_encode_setbit line value⟩, fun line value s => ?_⟩
  have hline : (setLine s.regs.ext line value).getLsbD line.val = value := by rw [getLsbD_setLine, if_pos rfl]
  have hothers : ∀ j : Fin 8, j ≠ line → (setLine s.regs.ext line value).getLsbD j.val = s.regs.ext.getLsbD j.val :=
    fun j hj => by rw [getLsbD_setLine, if_neg hj]
  exact ⟨setLastErr errNone (writeLine line value s), rfl, hline, hothers, rfl, ⟨rfl, rfl⟩, ⟨rfl, rfl, rfl, rfl, rfl⟩⟩

end Sys2Proof.Machine
end

section
/-! PROOFS, the encoding (spec/30_encoding.md), from a word to its row: a word that decodes is the word of its command, so it
matches its command's row of R73's opcode map, and a word that matches no row is illegal. -/

namespace Sys2Proof.Machine

/-- R70: the four fields are the whole word. -/
theorem wordOf_fieldsOf (w : CmdWord) : wordOf (fieldsOf w) = w := by
  ext i hi
  interval_cases i <;> simp [wordOf, fieldsOf]

section Formats
variable {f : Fields} {i j : Instr}

/-- Formats Z and C: only OP may be nonzero. -/
theorem decodeNoFields_eq_instr_iff :
    decodeNoFields f i = .instr j ↔ i = j ∧ f.mask = 0 ∧ f.val = false ∧ f.line = 0 := by
  unfold decodeNoFields
  split_ifs <;> simp_all

/-- Format M: MASK is the operand. -/
theorem decodeMask_eq_instr_iff :
    decodeMask f = .instr j ↔ .classify f.mask = j ∧ f.val = false ∧ f.line = 0 := by
  unfold decodeMask
  split_ifs <;> simp_all

/-- Format S: LINE and VAL are the operands. -/
theorem decodeSetLine_eq_instr_iff :
    decodeSetLine f = .instr j ↔ .setbit f.line.toFin f.val = j ∧ f.mask = 0 := by
  unfold decodeSetLine
  split_ifs <;> simp_all

end Formats

/-- A word that decodes carries exactly the fields that R71's format gives its command. -/
theorem fieldsOf_of_decode {w : CmdWord} {i : Instr} (h : decode w = .instr i) : fieldsOf w = fieldsFor i := by
  unfold decode at h
  generalize fieldsOf w = f at h ⊢
  obtain ⟨op, line, val, mask⟩ := f
  have hop {n : Nat} (hn : op.toNat = n) : op = BitVec.ofNat 4 n := by rw [← hn, BitVec.ofNat_toNat, BitVec.setWidth_eq]
  split at h
  case h_1 hn | h_2 hn | h_3 hn | h_6 hn =>
    obtain ⟨rfl, rfl, rfl, rfl⟩ := decodeNoFields_eq_instr_iff.mp h
    rw [hop hn]
    rfl
  case h_4 hn =>
    obtain ⟨rfl, rfl, rfl⟩ := decodeMask_eq_instr_iff.mp h
    rw [hop hn]
    rfl
  case h_5 hn =>
    obtain ⟨rfl, rfl⟩ := decodeSetLine_eq_instr_iff.mp h
    rw [hop hn]
    rfl
  case h_7 => cases h

/-- A word that decodes to a command is that command's word (R78). -/
theorem encode_of_decode {w : CmdWord} {i : Instr} (h : decode w = .instr i) : encode i = w := by
  rw [encode, ← fieldsOf_of_decode h, wordOf_fieldsOf]

/-- Every command's word matches a row of the opcode map, whatever its operands. -/
theorem exists_row_matching_encode (i : Instr) : ∃ r ∈ opcodeMap, r.matchesWord (encode i) = true := by
  cases i with
  | nop | sample | tick | configure => decide
  | classify m =>
    refine ⟨⟨"CLASSIFY", 0x0003#16, 0x00FF#16⟩, by decide, beq_iff_eq.mpr (BitVec.eq_of_toNat_eq ?_)⟩
    calc (encode (.classify m) &&& 0x00FF#16).toNat
        = (encode (.classify m)).toNat &&& (2 ^ 8 - 1) := BitVec.toNat_and _ _
      _ = (m.toNat * 256 + 3) % 2 ^ 8 := by rw [toNat_encode_classify, Nat.and_two_pow_sub_one_eq_mod]
      _ = 3 := by omega
  | setbit line value =>
    revert line value
    decide

/-- R73, R74: a word that matches no row of the opcode map is illegal. -/
theorem decode_illegal_of_matches_no_row {w : CmdWord} (h : ∀ r ∈ opcodeMap, r.matchesWord w = false) :
    ∃ why, decode w = .illegal why := by
  cases hdecode : decode w with
  | illegal why => exact ⟨why, rfl⟩
  | instr i =>
    obtain ⟨r, hrow, hmatch⟩ := exists_row_matching_encode i
    rw [encode_of_decode hdecode, h r hrow] at hmatch
    cases hmatch

end Sys2Proof.Machine
end

section
/-! PROOFS, the control commands (spec/43_control.md), the handshake of R175: what the clock does with a word in IDLE, and that
in every other cycle it does not look at the command port. -/

namespace Sys2Proof.Machine

section Accept
variable {s : State} {w : CmdWord}

theorem acceptWord_of_illegal {why : DecodeError} (h : decode w = .illegal why) :
    acceptWord w s = .next (illegalWord s) := by
  rw [acceptWord, h]

theorem acceptWord_of_sample (h : decode w = .instr .sample) : acceptWord w s = .next (beginTransfer .sample s) := by
  rw [acceptWord, h]

theorem acceptWord_of_tick (h : decode w = .instr .tick) : acceptWord w s = .next (beginTransfer .tick s) := by
  rw [acceptWord, h]

/-- A command that is no transfer runs whole in its acceptance cycle. -/
theorem acceptWord_of_no_transfer {i : Instr} (h : decode w = .instr i) (hsample : i ≠ .sample) (htick : i ≠ .tick) :
    acceptWord w s = exec i s := by
  rw [acceptWord, h]
  cases i with
  | sample => exact absurd rfl hsample
  | tick => exact absurd rfl htick
  | nop | classify | setbit | configure => rfl

/-- A word offered while `cmd_ready` = 1 is accepted. -/
theorem clock_of_offered (hready : cmdReady s = true) (hvalid : s.inp.cmdValid = true) :
    clock s = acceptWord s.inp.cmdWord s := by
  obtain ⟨hrst, -⟩ := cmdReady_iff.mp hready
  simp [clock, hrst, hready, hvalid]

/-- With no word offered a cycle in IDLE changes nothing. -/
theorem clock_of_not_offered (hready : cmdReady s = true) (hvalid : s.inp.cmdValid = false) : clock s = .next s := by
  obtain ⟨hrst, -⟩ := cmdReady_iff.mp hready
  simp [clock, hrst, hready, hvalid]

end Accept

section Configure
variable {s : State}

/-- CONFIGURE with deb < lng (R171). -/
theorem exec_configure_of_lt (h : debOperand s < lngOperand s) :
    exec .configure s = .next (setLastErr errNone (reconfigure (debOperand s) (lngOperand s) s)) :=
  if_pos (decide_eq_true h)

/-- CONFIGURE with lng ≤ deb (R172). -/
theorem exec_configure_of_le (h : lngOperand s ≤ debOperand s) :
    exec .configure s = .next (setLastErr errConfigRejected s) :=
  if_neg (by simpa [configAccepted] using h)

end Configure

/-- A command that is no transfer completes and leaves the sequencer and the input ports alone. -/
theorem exec_of_no_transfer {i : Instr} (hsample : i ≠ .sample) (htick : i ≠ .tick) (s : State) :
    ∃ t, exec i s = .next t ∧ t.sqr = s.sqr ∧ t.inp = s.inp := by
  cases i with
  | sample => exact absurd rfl hsample
  | tick => exact absurd rfl htick
  | nop | classify | setbit => exact ⟨_, rfl, rfl, rfl⟩
  | configure =>
    obtain h | h := Nat.lt_or_ge (debOperand s) (lngOperand s)
    · exact ⟨_, exec_configure_of_lt h, rfl, rfl⟩
    · exact ⟨_, exec_configure_of_le h, rfl, rfl⟩

/-- `cmd_ready` depends on nothing but the sequencer and the input ports. -/
theorem cmdReady_congr {s t : State} (hsqr : t.sqr = s.sqr) (hinp : t.inp = s.inp) : cmdReady t = cmdReady s := by
  rw [cmdReady, cmdReady, hsqr, hinp]

/-- In PH_A `cmd_ready` is 0. -/
theorem cmdReady_beginTransfer (op : TransferOp) (s : State) : cmdReady (beginTransfer op s) = false := by
  simp [cmdReady]

/-- A transfer in flight returns to IDLE from its COMMIT cycle and from no other. -/
theorem transferCycle_phase_eq_idle_iff {s : State} (h : s.sqr.phase ≠ .idle) :
    (transferCycle s).sqr.phase = .idle ↔ s.sqr.phase = .commit := by
  unfold transferCycle
  cases hphase : s.sqr.phase with
  | idle => exact absurd hphase h
  | commit => cases hop : s.sqr.curOp <;> simp [commitTransfer, hop, commitSample, commitTick]
  | phA | phB | phC | phD =>
    dsimp only
    split_ifs <;> simp [hphase, startOutBit, startPhC, raiseSclk, startInBit, sampleSdi, startCommit]

theorem commitTransfer_drivePorts (rst valid : Bool) (w : CmdWord) (a b : Nat) (s : State) :
    commitTransfer (drivePorts rst valid w a b s) = drivePorts rst valid w a b (commitTransfer s) := by
  unfold commitTransfer
  rw [drivePorts_sqr]
  cases s.sqr.curOp <;> rfl

/-- A transfer in flight does the same whatever stands on `rst` and the command port during the cycle. -/
theorem transferCycle_drivePorts (rst valid : Bool) (w : CmdWord) (a b : Nat) (s : State) :
    transferCycle (drivePorts rst valid w a b s) = drivePorts rst valid w a b (transferCycle s) := by
  have hlast : lastOfHalf (drivePorts rst valid w a b s) = lastOfHalf s := rfl
  unfold transferCycle
  rw [hlast, drivePorts_sqr, drivePorts_pins]
  cases s.sqr.phase with
  | idle => rfl
  | commit => exact commitTransfer_drivePorts rst valid w a b s
  | phA | phB | phC | phD =>
    dsimp only
    split_ifs <;> rfl

/-- While `cmd_ready` = 0 a cycle is a reset or a cycle of the transfer: it leaves the ports as driven and does not look at the
command port. -/
theorem clock_drivePorts_of_not_ready {s : State} (h : cmdReady s = false) :
    ∃ t, clock s = .next t ∧ t.inp = s.inp ∧ ∀ (valid : Bool) (w : CmdWord) (a b : Nat),
      clock (drivePorts s.inp.rst valid w a b s) = .next (drivePorts s.inp.rst valid w a b t) := by
  cases hrst : s.inp.rst with
  | true => exact ⟨loadReset s, if_pos hrst, rfl, fun _ _ _ _ => rfl⟩
  | false =>
    have hphase : s.sqr.phase ≠ .idle := fun hidle => by
      rw [cmdReady_iff.mpr ⟨hrst, hidle⟩] at h
      cases h
    obtain ⟨-, hinp, -⟩ := transferCycle_frame s
    refine ⟨transferCycle s, clock_busy hrst hphase, hinp, fun valid w a b => ?_⟩
    have hdriven : (drivePorts false valid w a b s).sqr.phase ≠ .idle := hphase
    rw [clock_busy rfl hdriven, transferCycle_drivePorts]

/-- A word accepted at the clock: a transfer begins, any other command commits, and an illegal word leaves the sequencer. -/
theorem clock_of_accepted {s : State} (hready : cmdReady s = true) (hvalid : s.inp.cmdValid = true) :
    ∃ t, clock s = .next t ∧
      ((decode s.inp.cmdWord = .instr .sample ∨ decode s.inp.cmdWord = .instr .tick) →
        t.sqr.phase = .phA ∧ cmdReady t = false) ∧
      (∀ i, decode s.inp.cmdWord = .instr i → i ≠ .sample → i ≠ .tick →
        exec i s = .next t ∧ t.sqr = s.sqr ∧ cmdReady t = true) ∧
      ((decode s.inp.cmdWord).isLegal = false → t.sqr = s.sqr ∧ cmdReady t = true) := by
  rw [clock_of_offered hready hvalid]
  cases hdecode : decode s.inp.cmdWord with
  | illegal why =>
    have hkept : cmdReady (illegalWord s) = true := (cmdReady_congr rfl rfl).trans hready
    exact ⟨illegalWord s, acceptWord_of_illegal hdecode, by simp, nofun, fun _ => ⟨rfl, hkept⟩⟩
  | instr i =>
    by_cases hsample : i = .sample
    · subst hsample
      exact ⟨beginTransfer .sample s, acceptWord_of_sample hdecode, fun _ => ⟨rfl, cmdReady_beginTransfer .sample s⟩,
        fun j hj hne _ => absurd (Decoded.instr.inj hj).symm hne, nofun⟩
    by_cases htick : i = .tick
    · subst htick
      exact ⟨beginTransfer .tick s, acceptWord_of_tick hdecode, fun _ => ⟨rfl, cmdReady_beginTransfer .tick s⟩,
        fun j hj _ hne => absurd (Decoded.instr.inj hj).symm hne, nofun⟩
    obtain ⟨t, hexec, hsqr, hinp⟩ := exec_of_no_transfer hsample htick s
    have hkept : cmdReady t = true := (cmdReady_congr hsqr hinp).trans hready
    exact ⟨t, (acceptWord_of_no_transfer hdecode hsample htick).trans hexec, by simp [hsample, htick],
      fun j hj _ _ => ⟨Decoded.instr.inj hj ▸ hexec, hsqr, hkept⟩, nofun⟩

/-- Settles O16: an accepted word by its decoding; a transfer is ready again after COMMIT; out of IDLE and under reset the clock
commutes with driving the command port. -/
theorem commandHandshake : Obligations.CommandHandshake := by
  intro s
  refine ⟨cmdReady_iff, fun _ hvalid hready => clock_of_accepted hready hvalid, clock_of_not_offered, ?_, ?_⟩
  · intro hrst hphase
    obtain ⟨-, hinp, -⟩ := transferCycle_frame s
    refine ⟨transferCycle s, clock_busy hrst hphase, ?_⟩
    rw [cmdReady_iff, hinp, transferCycle_phase_eq_idle_iff hphase, and_iff_right hrst]
  · intro hready v w a b
    obtain ⟨t, hclock, hinp, hdriven⟩ := clock_drivePorts_of_not_ready hready
    refine ⟨t, hclock, (hdriven v w a b).trans ?_⟩
    rw [← hinp]
    rfl

end Sys2Proof.Machine
end

section
/-! PROOFS, the control commands (spec/43_control.md): an illegal word, NOP and CONFIGURE, each with everything it leaves
unchanged. -/

namespace Sys2Proof.Machine

/-- Settles O13: a word that matches no row is illegal, and both its step and its acceptance cycle are `illegalWord`. -/
theorem illegalWordOnlySetsLastErr : Obligations.IllegalWordOnlySetsLastErr := by
  intro s w hrows
  obtain ⟨why, hdecode⟩ := decode_illegal_of_matches_no_row hrows
  have hissue : issue w s = .next (illegalWord s) := by rw [issue, hdecode]
  refine ⟨hissue, fun hrst hvalid hword hphase => ?_⟩
  subst hword
  have hclock : clock s = .next (illegalWord s) :=
    (clock_of_offered (cmdReady_iff.mpr ⟨hrst, hphase⟩) hvalid).trans (acceptWord_of_illegal hdecode)
  exact ⟨illegalWord s, hclock, rfl, ⟨rfl, rfl⟩, ⟨rfl, rfl, rfl, rfl, rfl⟩⟩

/-- Settles O18: a word that decodes to NOP is NOP's word, and that is 0x0000. -/
theorem nopOnlyClearsLastErr : Obligations.NopOnlyClearsLastErr := by
  have hword : encode .nop = 0x0000#16 := by decide
  refine ⟨hword, fun w => ⟨fun h => (encode_of_decode h).symm.trans hword, ?_⟩, fun s => rfl⟩
  rintro rfl
  decide

/-- R171: after a re-construction no button is tracked, in either mode. -/
theorem noTracks_reconfigure (deb lng : Nat) (s : State) : noTracks (reconfigure deb lng s) := by
  intro b
  cases hmode : s.cfg.sentinel <;> simp [tracking, isTracking, hmode]

/-- TRACK reads 0 when no button is tracked. -/
theorem trackView_eq_zero_of_noTracks {s : State} (h : noTracks s) : trackView s = 0 :=
  mask_ext fun b => by rw [bitOf_trackView, h b]; exact (bitOf_zero b).symm

/-- Settles O25: the two outcomes of R171, by the order of the operands on the buses. -/
theorem configureSetsThresholdsAndClears : Obligations.ConfigureSetsThresholdsAndClears := by
  refine ⟨by decide, fun s deb lng hdeb hlng => ?_⟩
  obtain rfl : deb = debOperand s := hdeb
  obtain rfl : lng = lngOperand s := hlng
  obtain h | h := Nat.lt_or_ge (debOperand s) (lngOperand s)
  · have hidle : noTracks (setLastErr errNone (reconfigure (debOperand s) (lngOperand s) s)) :=
      noTracks_reconfigure (debOperand s) (lngOperand s) s
    exact ⟨_, exec_configure_of_lt h, ⟨rfl, rfl⟩, ⟨rfl, rfl, rfl, rfl, rfl⟩,
      fun _ => ⟨rfl, hidle, trackView_eq_zero_of_noTracks hidle⟩, fun hle => absurd h hle.not_gt⟩
  · exact ⟨_, exec_configure_of_le h, ⟨rfl, rfl⟩, ⟨rfl, rfl, rfl, rfl, rfl⟩,
      fun hlt => absurd hlt h.not_gt, fun _ => rfl⟩

/-- Settles O26: an accepted CONFIGURE ends with LAST_ERR = 0, so exactly the rejected one, which writes nothing else, ends with
LAST_ERR = 2. -/
theorem rejectedConfigureChangesNothingElse : Obligations.RejectedConfigureChangesNothingElse := by
  intro s deb lng hdeb hlng
  obtain rfl : deb = debOperand s := hdeb
  obtain rfl : lng = lngOperand s := hlng
  obtain h | h := Nat.lt_or_ge (debOperand s) (lngOperand s)
  · have hcode : errNone ≠ 2#2 := by decide
    exact ⟨_, exec_configure_of_lt h, ⟨fun hle => absurd h hle.not_gt, fun he => absurd he hcode⟩,
      fun he => absurd he hcode, fun _ => ⟨rfl, rfl, rfl⟩⟩
  · exact ⟨_, exec_configure_of_le h, ⟨fun _ => rfl, fun _ => h⟩, fun _ => rfl, fun hne => absurd rfl hne⟩

end Sys2Proof.Machine
end

section
/-! PROOFS, the LAST_ERR codes (spec/60_exceptions.md R201): the code that each command ends with, and what a step can do to
LAST_ERR: keep it, or write one of the three codes. -/

namespace Sys2Proof.Machine

variable {s t : State}

/-- A completed command ends with CONFIG_REJECTED if it is a rejected CONFIGURE, and with NONE otherwise. -/
theorem lastErr_of_exec {i : Instr} (h : exec i s = .next t) :
    t.regs.lastErr = if i = .configure ∧ lngOperand s ≤ debOperand s then errConfigRejected else errNone := by
  cases i with
  | nop | sample | tick | classify mask | setbit line value =>
    cases h
    rfl
  | configure =>
    obtain hlt | hle := Nat.lt_or_ge (debOperand s) (lngOperand s)
    · rw [exec_configure_of_lt hlt] at h
      cases h
      exact (if_neg fun hrejected => absurd hlt hrejected.2.not_gt).symm
    · rw [exec_configure_of_le hle] at h
      cases h
      exact (if_pos ⟨rfl, hle⟩).symm

/-- A word that does not decode runs as `illegalWord` (R173). -/
theorem issue_of_not_isLegal {w : CmdWord} (h : (decode w).isLegal = false) : issue w s = .next (illegalWord s) := by
  cases hdecode : decode w with
  | illegal why => rw [issue, hdecode]
  | instr i =>
    rw [hdecode] at h
    cases h

/-- What a step from `s` to `t` can do to LAST_ERR. -/
inductive LastErrEffect (s t : State) : Prop
  | keeps (h : t.regs.lastErr = s.regs.lastErr)
  | none (h : t.regs.lastErr = errNone)
  | illegalCmd (h : t.regs.lastErr = errIllegalCmd)
  | configRejected (h : t.regs.lastErr = errConfigRejected)

/-- None of the three codes is 3, so a 3 was there before. -/
theorem LastErrEffect.eq_three_of_eq_three (h : LastErrEffect s t) (hthree : t.regs.lastErr = 3#2) :
    s.regs.lastErr = 3#2 := by
  cases h with
  | keeps hcode => exact hcode.symm.trans hthree
  | none hcode | illegalCmd hcode | configRejected hcode => exact absurd (hcode.symm.trans hthree) (by decide)

/-- The engine's inputs have no part in what happens to LAST_ERR. -/
theorem LastErrEffect.of_sameEngine {s' : State} (h : SameEngine s s') (he : LastErrEffect s' t) :
    LastErrEffect s t := by
  obtain ⟨-, hregs, -, -⟩ := h
  cases he with
  | keeps hcode => exact .keeps (hregs ▸ hcode)
  | none hcode => exact .none hcode
  | illegalCmd hcode => exact .illegalCmd hcode
  | configRejected hcode => exact .configRejected hcode

theorem exec_lastErrEffect {i : Instr} (h : exec i s = .next t) : LastErrEffect s t := by
  have hcode := lastErr_of_exec h
  split at hcode
  · exact .configRejected hcode
  · exact .none hcode

theorem AcceptsWord.lastErrEffect {w : CmdWord} (h : AcceptsWord w s t) : LastErrEffect s t := by
  obtain ⟨why, -, rfl⟩ | ⟨i, -, hexec⟩ | ⟨-, rfl⟩ | ⟨-, rfl⟩ := h
  · exact .illegalCmd rfl
  · exact exec_lastErrEffect hexec
  · exact .keeps rfl
  · exact .keeps rfl

/-- R111, R136: both commits end with LAST_ERR <- 0. -/
theorem commitTransfer_lastErr (s : State) : (commitTransfer s).regs.lastErr = errNone := by
  unfold commitTransfer
  cases s.sqr.curOp <;> rfl

/-- A transfer in flight writes LAST_ERR only in its COMMIT cycle. -/
theorem transferCycle_lastErrEffect (s : State) : LastErrEffect s (transferCycle s) := by
  by_cases hphase : s.sqr.phase = .commit
  · rw [transferCycle, hphase]
    exact .none (commitTransfer_lastErr s)
  · exact .keeps (by rw [transferCycle_regs hphase])

theorem step_lastErrEffect (h : step s = .next t) : LastErrEffect s t := by
  obtain ⟨-, s', hsame, hstep⟩ := step_cases h
  apply LastErrEffect.of_sameEngine hsame
  obtain rfl | ⟨rfl, -⟩ | ⟨-, m, w, a, b, rest, -, -, -, -, haccept⟩ | ⟨-, rfl⟩ := hstep
  · exact .keeps rfl
  · exact .none rfl
  · exact haccept.lastErrEffect
  · exact transferCycle_lastErrEffect s'

/-- Settles O39: a command by the code it ends with, an illegal word by `illegalWord`, a step by what it can do to LAST_ERR. -/
theorem lastErrCodes : Obligations.LastErrCodes := by
  refine ⟨fun i s t hexec => ?_, fun w s hillegal => ⟨_, issue_of_not_isLegal hillegal, rfl⟩,
    fun s t hstep => (step_lastErrEffect hstep).eq_three_of_eq_three⟩
  change (_ ↔ ¬(i = .configure ∧ lngOperand s ≤ debOperand s)) ∧ (_ ↔ i = .configure ∧ lngOperand s ≤ debOperand s)
  rw [lastErr_of_exec hexec]
  split
  case isTrue hrejected => simp [hrejected, errConfigRejected]
  case isFalse hnot => simp [hnot, errNone]

end Sys2Proof.Machine
end

section
/-! PROOFS, reset (spec/70_reset_and_hazards.md): what a cycle with `rst` = 1 does, in IDLE as in mid-transfer, in every
configuration. -/

namespace Sys2Proof.Machine

/-- R203, R230: `rst` = 1 overrides the transfer in flight and the word offered. -/
theorem clock_of_rst {s : State} (h : s.inp.rst = true) : clock s = .next (loadReset s) :=
  if_pos h

/-- R231: nothing is accepted while `rst` = 1. -/
theorem cmdReady_of_rst {s : State} (h : s.inp.rst = true) : cmdReady s = false := by
  simp [cmdReady, h]

/-- R231: the first cycle with `rst` = 0 after the reset is ready, whatever else stands on the ports. -/
theorem cmdReady_loadReset (s : State) {inp : Inputs} (h : inp.rst = false) :
    cmdReady { loadReset s with inp := inp } = true :=
  cmdReady_of_sqr_reset h rfl

/-- Settles O45: the cycle ends in `loadReset s`, whose registers, sequencer and pins are the reset values of R36 for the
configuration, whatever the phase of `s`. -/
theorem resetLoadsTheResetState : Obligations.ResetLoadsTheResetState := by
  intro s _ hrst
  have hstart : ∀ b : Button, (loadReset s).regs.tstart.get b = 0 := get_tstart_reset s.cfg
  have hready : ∀ inp : Inputs, inp.rst = false → cmdReady { loadReset s with inp := inp } = true :=
    fun _ => cmdReady_loadReset s
  have houtside : SameOutside s (loadReset s) := ⟨rfl, rfl, rfl, rfl, rfl⟩
  exact ⟨loadReset s, clock_of_rst hrst, cmdReady_of_rst hrst, hstart, rfl, rfl, rfl, rfl, rfl, rfl, rfl, rfl, rfl, rfl, rfl,
    rfl, rfl, rfl, hready, houtside⟩

end Sys2Proof.Machine
end

section
/-! PROOFS, the encoding (spec/30_encoding.md): encoder and decoder are inverse to each other, every row of R73's opcode map is the
row of one mnemonic, and R74 says which words are illegal and how many are not. -/

namespace Sys2Proof.Machine

/-- R70, R71: a command's word carries exactly the fields of its format. -/
@[simp] theorem fieldsOf_encode (i : Instr) : fieldsOf (encode i) = fieldsFor i :=
  Laws.EncodedFields.fieldsOf_wordOf (fieldsFor i)

/-- R72: no operand is out of range, so every command's word decodes to it. -/
@[simp] theorem decode_encode (i : Instr) : decode (encode i) = .instr i := by
  rw [decode, fieldsOf_encode]
  cases i <;> rfl

/-- Settles O2: decoding looks at the fields only, and those of a command's word are the ones its format gives it. -/
theorem decodeOfEncodeIsTheCommand : Obligations.DecodeOfEncodeIsTheCommand :=
  decode_encode

/-- Settles O3: the fields of a word that decodes are its command's, and a word is made of its fields. -/
theorem encodeOfDecodeIsTheWord : Obligations.EncodeOfDecodeIsTheWord :=
  fun _ _ => encode_of_decode

theorem encode_injective : Function.Injective encode := fun i j h =>
  Decoded.instr.inj <| by rw [← decode_encode i, h, decode_encode]

/-- The legal words are the commands' words. -/
theorem isLegal_decode_iff {w : CmdWord} : (decode w).isLegal = true ↔ ∃ i, encode i = w := by
  constructor
  · intro h
    cases hdecode : decode w with
    | illegal why => rw [hdecode] at h; cases h
    | instr i => exact ⟨i, encode_of_decode hdecode⟩
  · rintro ⟨i, rfl⟩
    rw [decode_encode]
    rfl

/-- Settles O1: each word is decoded as it is written. -/
theorem wordsOfTheSpecDecode : Obligations.WordsOfTheSpecDecode := by
  refine ⟨?_, ?_, ?_, ?_, ?_, ?_, ?_, ?_, ?_, ?_, ?_⟩ <;> decide

section Illegal
variable (f : Fields) (i : Instr)

/-- Formats Z and C (R71). -/
theorem isLegal_decodeNoFields :
    (decodeNoFields f i).isLegal = false ↔ f.mask ≠ 0 ∨ f.line ≠ 0 ∨ f.val = true := by
  unfold decodeNoFields
  split_ifs <;> simp_all [Decoded.isLegal]

/-- Format M (R71). -/
theorem isLegal_decodeMask : (decodeMask f).isLegal = false ↔ f.line ≠ 0 ∨ f.val = true := by
  unfold decodeMask
  split_ifs <;> simp_all [Decoded.isLegal]

/-- Format S (R71). -/
theorem isLegal_decodeSetLine : (decodeSetLine f).isLegal = false ↔ f.mask ≠ 0 := by
  unfold decodeSetLine
  split_ifs <;> simp_all [Decoded.isLegal]

end Illegal

/-- Settles O5: OP selects the format, and each format is refused exactly by a nonzero field that it requires to be 0. -/
theorem illegalExactlyByReservedBits : Obligations.IllegalExactlyByReservedBits := by
  intro w
  change _ ↔ 6 ≤ (fieldsOf w).op.toNat ∨ ((fieldsOf w).op.toNat ≠ 3 ∧ (fieldsOf w).mask ≠ 0) ∨
    ((fieldsOf w).op.toNat ≠ 4 ∧ ((fieldsOf w).line ≠ 0 ∨ (fieldsOf w).val = true))
  unfold decode
  match (fieldsOf w).op.toNat with
  | 0 | 1 | 2 | 5 => simp [isLegal_decodeNoFields]
  | 3 => simp [isLegal_decodeMask]
  | 4 => simp [isLegal_decodeSetLine]
  | n + 6 => simp [Decoded.isLegal]

/-- Masking a word masks its fields, each by the mask's own. -/
theorem fieldsOf_and (w m : CmdWord) :
    fieldsOf (w &&& m) =
      { op := (fieldsOf w).op &&& (fieldsOf m).op, line := (fieldsOf w).line &&& (fieldsOf m).line
        val := (fieldsOf w).val && (fieldsOf m).val, mask := (fieldsOf w).mask &&& (fieldsOf m).mask } := by
  simp [fieldsOf, BitVec.extractLsb'_and]

/-- A word with a command's fields is that command's word. -/
theorem encode_of_fieldsOf {w : CmdWord} {i : Instr} (h : fieldsOf w = fieldsFor i) : encode i = w := by
  rw [encode, ← h, wordOf_fieldsOf]

/-- A word that matches a row of the opcode map is the word of a command with the row's mnemonic. -/
theorem exists_encode_of_matchesWord {r : TableRow} (hr : r ∈ opcodeMap) {w : CmdWord} (h : r.matchesWord w = true) :
    ∃ i, encode i = w ∧ i.mnemonic = r.mnemonic := by
  suffices hcommand : ∃ i, fieldsOf w = fieldsFor i ∧ i.mnemonic = r.mnemonic by
    obtain ⟨i, hi, hname⟩ := hcommand
    exact ⟨i, encode_of_fieldsOf hi, hname⟩
  have hfields : fieldsOf (w &&& r.maskBits) = fieldsOf r.matchBits := congrArg fieldsOf (beq_iff_eq.mp h)
  rw [fieldsOf_and] at hfields
  have hop (op : BitVec 4) : op &&& 15#4 = op := BitVec.and_allOnes
  have hline (line : BitVec 3) : line &&& 7#3 = line := BitVec.and_allOnes
  have hmask (mask : Byte) : mask &&& 255#8 = mask := BitVec.and_allOnes
  generalize fieldsOf w = f at hfields ⊢
  obtain ⟨op, line, val, mask⟩ := f
  simp only [opcodeMap, List.mem_cons, List.not_mem_nil, or_false] at hr
  obtain rfl | rfl | rfl | rfl | rfl | rfl := hr
  · exact ⟨.nop, by simpa [fieldsOf, fieldsFor, hop, hline, hmask] using hfields, rfl⟩
  · exact ⟨.sample, by simpa [fieldsOf, fieldsFor, hop, hline, hmask] using hfields, rfl⟩
  · exact ⟨.tick, by simpa [fieldsOf, fieldsFor, hop, hline, hmask] using hfields, rfl⟩
  · exact ⟨.classify mask, by simpa [fieldsOf, fieldsFor, hop, hline, hmask] using hfields, rfl⟩
  · exact ⟨.setbit line.toFin val, by simpa [fieldsOf, fieldsFor, hop, hline, hmask] using hfields, rfl⟩
  · exact ⟨.configure, by simpa [fieldsOf, fieldsFor, hop, hline, hmask] using hfields, rfl⟩

/-- The six rows have six mnemonics. -/
theorem row_eq_of_mnemonic_eq : ∀ r ∈ opcodeMap, ∀ r' ∈ opcodeMap, r.mnemonic = r'.mnemonic → r = r' := by
  decide

/-- A command's word matches the row of its mnemonic and no other. -/
theorem matchesWord_encode (i : Instr) {r : TableRow} (hr : r ∈ opcodeMap) :
    r.matchesWord (encode i) = decide (r.mnemonic = i.mnemonic) := by
  have mnemonic_of_matches {r : TableRow} (hr : r ∈ opcodeMap) (h : r.matchesWord (encode i) = true) :
      r.mnemonic = i.mnemonic := by
    obtain ⟨j, hword, hname⟩ := exists_encode_of_matchesWord hr h
    rw [← hname, encode_injective hword]
  rw [Bool.eq_iff_iff, decide_eq_true_iff]
  refine ⟨mnemonic_of_matches hr, fun hname => ?_⟩
  obtain ⟨r', hr', hmatch⟩ := exists_row_matching_encode i
  rwa [row_eq_of_mnemonic_eq r hr r' hr' (hname.trans (mnemonic_of_matches hr' hmatch).symm)]

/-- Settles O4: a word that decodes is its command's word, which matches the row of its mnemonic; a word that matches a row is a
command's word and so not illegal. -/
theorem decoderFollowsTheOpcodeMap : Obligations.DecoderFollowsTheOpcodeMap := by
  refine ⟨rfl, fun w i hdecode => ?_, fun w hillegal => ?_⟩
  · have hrow : opcodeMap.filter (fun r => r.matchesWord w) = opcodeMap.filter (fun r => decide (r.mnemonic = i.mnemonic)) :=
      List.filter_congr fun r hr => by rw [← encode_of_decode hdecode, matchesWord_encode i hr]
    rw [hrow]
    cases i <;> rfl
  · refine List.filter_eq_nil_iff.mpr fun r hr hmatch => ?_
    obtain ⟨i, hword, -⟩ := exists_encode_of_matchesWord hr hmatch
    rw [isLegal_decode_iff.mpr ⟨i, hword⟩] at hillegal
    cases hillegal

/-- Every command with every operand: four without operands, 256 CLASSIFY and 16 SETBIT. -/
def allInstrs : List Instr :=
  [.nop, .sample, .tick, .configure] ++ (List.finRange (2 ^ 8)).map (fun m => Instr.classify (BitVec.ofFin m)) ++
    (List.finRange 8 ×ˢ [false, true]).map (fun p => Instr.setbit p.1 p.2)

theorem mem_allInstrs (i : Instr) : i ∈ allInstrs := by
  cases i with
  | nop | sample | tick | configure => simp [allInstrs]
  | classify mask => simp [allInstrs]
  | setbit line value => simp [allInstrs]

theorem nodup_allInstrs : allInstrs.Nodup := by
  have hclassify : ((List.finRange (2 ^ 8)).map fun m => Instr.classify (BitVec.ofFin m)).Nodup :=
    (List.nodup_finRange (2 ^ 8)).map fun m n h => by simpa using h
  have hsetbit : ((List.finRange 8 ×ˢ [false, true]).map fun p => Instr.setbit p.1 p.2).Nodup :=
    ((List.nodup_finRange 8).product (by decide)).map fun p q h => by simpa [Prod.ext_iff] using h
  refine List.Nodup.append (List.Nodup.append (by decide) hclassify ?_) hsetbit ?_
  · simp [List.disjoint_left]
  · simp [List.disjoint_left]

/-- Settles O6: the legal words are the words of the 276 commands, no two of which have one word. -/
theorem exactlyTwoHundredSeventySixLegalWords : Obligations.ExactlyTwoHundredSeventySixLegalWords := by
  refine ⟨allInstrs.map encode, nodup_allInstrs.map encode_injective, ?_, fun w => ?_⟩
  · simp [allInstrs, List.length_product]
  · simp [isLegal_decode_iff, mem_allInstrs]

end Sys2Proof.Machine
end

section
/-! PROOFS, the assembler lines of R79 (spec/30_encoding.md): each line is one move of the host, and the operands that the move
carries are the ones written. -/

namespace Sys2Proof.Machine

/-- R75: a button's constant is the mask of that button alone. -/
theorem bitOf_constant (b c : Button) : bitOf c.constant b = decide (b = c) := by
  cases b <;> cases c <;> rfl

/-- The mask that a list of button constants writes holds the buttons of the list. -/
theorem bitOf_maskValue_buttons (bs : List Button) (b : Button) :
    bitOf (maskValue (.buttons bs)) b = true ↔ b ∈ bs := by
  rw [maskValue]
  induction bs with
  | nil => simp
  | cons c cs ih => rw [List.foldr_cons, bitOf_or, Bool.or_eq_true, ih, bitOf_constant, decide_eq_true_iff, List.mem_cons]

/-- A command's line is a move whose word decodes to the command. -/
theorem exists_command_of_commandMove (i : Instr) (a b : Nat) :
    ∃ w, commandMove i a b = .command w a b ∧ decode w = .instr i :=
  ⟨encode i, rfl, decode_encode i⟩

/-- R51: the entries of TSTART stand at 0x10 to 0x17. -/
theorem toNat_regAddr_tstart {i : Nat} (h : i < 8) : (regAddr (.tstart i)).toNat = 0x10 + i := by
  interval_cases i <;> rfl

/-- Settles O8: form by form; a command's word by `decode_encode`, an operand in range by the width of its field. -/
theorem assemblerLinesAreTheirMoves : Obligations.AssemblerLinesAreTheirMoves := by
  intro c
  refine ⟨?_, fun n hn => ?_, fun bs => ?_, fun line value hwf => ?_, fun deb lng hwf => ?_, fun _ => ⟨rfl, rfl⟩, rfl,
    fun n hn => ?_, fun n hn => ?_, fun i hi => ?_, rfl, rfl, rfl, rfl, rfl, rfl, rfl, rfl, rfl, rfl, fun n hn => ?_⟩
  case refine_1 =>
    rintro i a (⟨rfl, rfl⟩ | ⟨rfl, rfl⟩ | ⟨rfl, rfl⟩) <;> exact exists_command_of_commandMove _ 0 0
  case refine_2 =>
    have hbyte : n < 2 ^ 8 := of_decide_eq_true hn
    exact ⟨_, rfl, _, decode_encode _, Nat.mod_eq_of_lt hbyte⟩
  case refine_3 => exact ⟨_, rfl, _, decode_encode _, bitOf_maskValue_buttons bs⟩
  case refine_4 =>
    obtain ⟨hline, -⟩ : line < 8 ∧ value < 2 := by simpa [Asm.wellFormed] using hwf
    exact ⟨_, lineNumber line, rfl, decode_encode _, Nat.mod_eq_of_lt hline⟩
  case refine_5 =>
    obtain ⟨hdeb, hlng⟩ : deb < 2 ^ c.tw ∧ lng < 2 ^ c.tw := by simpa [Asm.wellFormed] using hwf
    exact ⟨_, deb, lng, rfl, decode_encode _, portValue_of_lt hdeb, portValue_of_lt hlng⟩
  case refine_6 => exact ⟨n, rfl, portValue_of_lt (of_decide_eq_true hn)⟩
  case refine_7 =>
    have hbyte : n < 2 ^ 8 := of_decide_eq_true hn
    refine ⟨_, rfl, length_levelsOf _ _, ?_⟩
    rw [funext (getD_levelsOf _ _), assemble_levels, BitVec.toNat_ofNat, Nat.mod_eq_of_lt hbyte]
  case refine_8 => exact ⟨_, rfl, toNat_regAddr_tstart (of_decide_eq_true hi)⟩
  case refine_9 => exact ⟨_, rfl, Nat.mod_eq_of_lt (of_decide_eq_true hn)⟩

end Sys2Proof.Machine
end

section
/-! PROOFS, the invariant of the engine: its part about the registers (spec/10_state.md, spec/41_classifier.md) and its part about
the bus (spec/40_transport_sampler.md), each kept by every operation; then by a command, by a cycle of a transfer and by a step. -/

namespace Sys2Proof.Machine

variable {s s' t : State}

/-- R10's three conditions and R8's range of TW. -/
theorem legal_iff {c : Config.Params} :
    c.legal = true ↔ c.debReset < c.longReset ∧ c.longReset < 2 ^ c.tw ∧ 1 ≤ c.half ∧ 12 ≤ c.tw := by
  simp [Config.Params.legal, and_assoc]

/-- The part of the invariant that speaks of the registers, but for BUSY. -/
def RegsInv (s : State) : Prop :=
  SnapshotInv s ∧ ThresholdInv s ∧ WidthInv s ∧ TrackInv s ∧ EventInv s ∧ s.regs.lastErr ≠ 3#2

/-- The part of the invariant that speaks of the sequencer: BUSY, OB, the pins and the counts in each phase. -/
def BusInv (s : State) : Prop :=
  s.regs.busy = decide (s.sqr.phase ≠ .idle) ∧ OutByteInv s ∧ PinInv s ∧ CounterInv s

theorem engineInv_iff : EngineInv s ↔ RegsInv s ∧ BusInv s := by
  simp only [EngineInv, RegsInv, BusInv, StatusInv]
  tauto

/-- The engine's inputs have no part in the invariant. -/
theorem EngineInv.of_sameEngine (hsame : SameEngine s s') (h : EngineInv s) : EngineInv s' := by
  obtain ⟨cfg, regs, sqr, pins, inp, host, sdi, sdiDrawn⟩ := s'
  obtain ⟨rfl, rfl, rfl, rfl⟩ := hsame
  exact h

section Registers

theorem RegsInv.setLastErr {e : BitVec 2} (h : RegsInv s) (he : e ≠ 3#2) : RegsInv (setLastErr e s) := by
  obtain ⟨hsnap, hthr, hwidth, htrack, hevent, -⟩ := h
  exact ⟨hsnap, hthr, hwidth, htrack, hevent, he⟩

theorem RegsInv.endTransfer (h : RegsInv s) : RegsInv (endTransfer s) :=
  h.setLastErr (e := errNone) (by decide)

/-- R112: PRESSED is written as the complement of RAWIN. -/
theorem RegsInv.writeSnapshot (h : RegsInv s) : RegsInv (writeSnapshot s) := by
  obtain ⟨-, hrest⟩ := h
  exact ⟨rfl, hrest⟩

/-- A pass writes a TSTART entry with its time or 0, or leaves it. -/
theorem passButton_tstart_lt {m : Byte} {time : Nat} {b : Button} (htime : time < 2 ^ s.cfg.tw)
    (hstart : s.regs.tstart.get b < 2 ^ s.cfg.tw) : (passButton s m time b).tstart < 2 ^ s.cfg.tw := by
  rcases htr : tracking s b with _ | _ <;> rcases hm : bitOf m b with _ | _
  · rwa [passButton_noTransition (htr.trans hm.symm)]
  · rwa [passButton_begin htr hm, beginTrack_tstart]
  · rw [passButton_release htr hm, endTrack_tstart]
    exact Nat.two_pow_pos _
  · rwa [passButton_noTransition (htr.trans hm.symm)]

/-- R26: in ZERO mode no pass writes the stored TRACK bit. -/
theorem passButton_track_of_zero (hmode : s.cfg.sentinel = .zero) (m : Byte) (time : Nat) (b : Button) :
    (passButton s m time b).track = bitOf s.regs.track b := by
  rw [passButton_cases, hmode]
  cases tracking s b <;> cases bitOf m b <;> rfl

theorem TrackInv.classifyPass (h : TrackInv s) (m : Byte) (time : Nat) : TrackInv (classifyPass m time s) := by
  unfold TrackInv
  rw [classifyPass_cfg]
  cases hmode : s.cfg.sentinel with
  | explicit =>
    intro b hstored
    have hidle : tracking (Machine.classifyPass m time s) b = false := by
      rw [tracking, classifyPass_cfg, hmode]
      exact hstored
    rw [get_classifyPass_tstart]
    exact passButton_tstart_of_idle (tstart_eq_zero_of_idle h) hidle
  | zero =>
    rw [TrackInv, hmode] at h
    refine mask_ext fun b => ?_
    rw [bitOf_classifyPass_track, passButton_track_of_zero hmode, h]

/-- R139: a pass at a TW-bit time keeps the register invariant. -/
theorem RegsInv.classifyPass {time : Nat} (h : RegsInv s) (m : Byte) (htime : time < 2 ^ s.cfg.tw) :
    RegsInv (classifyPass m time s) := by
  obtain ⟨hsnap, hthr, ⟨hdeb, hlongth, hstart⟩, htrack, -, herr⟩ := h
  refine ⟨hsnap, hthr, ⟨hdeb, hlongth, fun b => ?_⟩, htrack.classifyPass m time, mask_ext fun b => ?_, herr⟩
  · rw [get_classifyPass_tstart]
    exact passButton_tstart_lt htime (hstart b)
  · simp [passButton_short_and_long]

/-- R171: an accepted CONFIGURE establishes all but PRESSED = ~RAWIN and the error code. -/
theorem RegsInv.reconfigure {deb lng : Nat} (h : RegsInv s) (hlt : deb < lng) (hlng : lng < 2 ^ s.cfg.tw) :
    RegsInv (reconfigure deb lng s) := by
  obtain ⟨hsnap, -, -, -, -, herr⟩ := h
  refine ⟨hsnap, hlt, ⟨hlt.trans hlng, hlng, fun b => ?_⟩, ?_, BitVec.zero_and, herr⟩
  · simp
  · unfold TrackInv
    split <;> simp

/-- R10: the reset thresholds of a legal configuration are TW-bit values in order. -/
theorem RegsInv.loadReset (hlegal : s.cfg.legal = true) : RegsInv (loadReset s) := by
  obtain ⟨hlt, hlong, -, -⟩ := legal_iff.mp hlegal
  refine ⟨pressed_reset_eq_not_rawin _, hlt, ⟨hlt.trans hlong, hlong, fun b => ?_⟩, ?_, short_and_long_reset _, ?_⟩
  · rw [loadReset_regs, get_tstart_reset]
    exact Nat.two_pow_pos _
  · unfold TrackInv
    split
    · exact fun b _ => get_tstart_reset _ b
    · rfl
  · exact (by decide : 0#2 ≠ 3#2)

/-- The registers' part looks at nothing else but the configuration. -/
theorem RegsInv.congr (h : RegsInv s) (hcfg : t.cfg = s.cfg) (hregs : t.regs = s.regs) : RegsInv t := by
  obtain ⟨cfg, regs, sqr, pins, inp, host, sdi, sdiDrawn⟩ := t
  obtain rfl : cfg = s.cfg := hcfg
  obtain rfl : regs = s.regs := hregs
  exact h

end Registers

section Bus

theorem BusInv.loadReset (s : State) : BusInv (loadReset s) :=
  ⟨rfl, fun h => absurd rfl h, rfl, rfl, rfl⟩

/-- Out of a transfer nothing is asked of OB, so a line of EXT may be written. -/
theorem BusInv.writeLine (h : BusInv s) (hidle : s.sqr.phase = .idle) (line : Fin 8) (value : Bool) :
    BusInv (writeLine line value s) := by
  obtain ⟨hbusy, -, hpins, hcount⟩ := h
  exact ⟨hbusy, fun hflight => absurd hidle hflight, hpins, hcount⟩

/-- R101, R107: PH_A begins with OB = EXT, LATCH asserted and SDO as IDLE left it. -/
theorem BusInv.beginTransfer (h : BusInv s) (hidle : s.sqr.phase = .idle) (hhalf : 1 ≤ s.cfg.half) (op : TransferOp) :
    BusInv (beginTransfer op s) := by
  obtain ⟨-, -, hpins, -⟩ := h
  rw [PinInv, hidle] at hpins
  refine ⟨rfl, fun _ => rfl, ?_, hhalf, rfl⟩
  change (_ : Pins) = _
  rw [beginTransfer_pins, hpins]
  rfl

/-- A transfer in flight may be run to its COMMIT cycle. -/
theorem BusInv.runTransfer (h : BusInv s) (hflight : s.sqr.phase ≠ .idle) : BusInv (runTransfer s) := by
  obtain ⟨hbusy, hob, -, -⟩ := h
  exact ⟨hbusy.trans (decide_eq_true hflight), fun _ => hob hflight, rfl, rfl, rfl⟩

/-- IDLE has the pins and counts of COMMIT. -/
theorem BusInv.endTransfer (h : BusInv s) (hcommit : s.sqr.phase = .commit) : BusInv (endTransfer s) := by
  obtain ⟨-, -, hpins, hcount⟩ := h
  rw [PinInv, hcommit] at hpins
  rw [CounterInv, hcommit] at hcount
  exact ⟨rfl, fun hflight => absurd rfl hflight, hpins, hcount⟩

/-- `wait`: HC counts below HALF. -/
theorem BusInv.holdHalf (h : BusInv s) (hshift : Shifting s) (hmore : lastOfHalf s = false) : BusInv (holdHalf s) := by
  obtain ⟨hbusy, hob, hpins, hcount⟩ := h
  have hlt : s.sqr.hc + 1 < s.cfg.half := not_le.mp (of_decide_eq_false hmore)
  obtain ⟨hidle, hcommit⟩ := hshift
  refine ⟨hbusy, hob, hpins, ?_⟩
  unfold CounterInv at hcount ⊢
  rw [holdHalf_sqr, holdHalf_cfg]
  split at hcount <;> simp_all

section Shifting
variable (h : BusInv s) (hflight : s.sqr.phase ≠ .idle) (hhalf : 1 ≤ s.cfg.half)
include h hflight hhalf

theorem BusInv.startOutBit (hlatch : s.pins.latch = s.cfg.latchActive) (k : Fin 8) : BusInv (startOutBit k s) := by
  obtain ⟨hbusy, hob, -, -⟩ := h
  exact ⟨hbusy.trans (decide_eq_true hflight), fun _ => hob hflight, ⟨hlatch, rfl⟩, hhalf⟩

theorem BusInv.startPhC : BusInv (startPhC s) := by
  obtain ⟨hbusy, hob, -, -⟩ := h
  exact ⟨hbusy.trans (decide_eq_true hflight), fun _ => hob hflight, rfl, hhalf, rfl⟩

theorem BusInv.startInBit (hlatch : s.pins.latch = !s.cfg.latchActive) (hsdo : s.pins.sdo = s.cfg.sdoFill) (k : Fin 8) :
    BusInv (startInBit k s) := by
  obtain ⟨hbusy, hob, -, -⟩ := h
  exact ⟨hbusy.trans (decide_eq_true hflight), fun _ => hob hflight, ⟨hlatch, hsdo⟩, hhalf⟩

omit hflight in
theorem BusInv.raiseSclk (hbits : s.sqr.phase = .phB ∨ s.sqr.phase = .phD) : BusInv (raiseSclk s) := by
  obtain ⟨hbusy, hob, hpins, -⟩ := h
  refine ⟨hbusy, hob, ?_, ?_⟩
  · obtain hphase | hphase := hbits <;> simpa [PinInv, Machine.raiseSclk, hphase] using hpins
  · obtain hphase | hphase := hbits <;> simpa [CounterInv, Machine.raiseSclk, hphase] using (show 0 < s.cfg.half from hhalf)

omit hhalf in
theorem BusInv.startCommit (hlatch : s.pins.latch = !s.cfg.latchActive) (hsdo : s.pins.sdo = s.cfg.sdoFill) :
    BusInv (startCommit s) := by
  obtain ⟨hbusy, hob, -, -⟩ := h
  have hpins : PinInv (Machine.startCommit s) := by
    change Pins.mk false s.pins.latch s.pins.sdo = Pins.reset s.cfg
    rw [hlatch, hsdo]
    rfl
  exact ⟨hbusy.trans (decide_eq_true hflight), fun _ => hob hflight, hpins, rfl, rfl⟩

end Shifting

/-- R101: a cycle of a transfer before its COMMIT cycle keeps the bus invariant. -/
theorem BusInv.transferCycle (h : BusInv s) (hshift : Shifting s) (hhalf : 1 ≤ s.cfg.half) : BusInv (transferCycle s) := by
  cases hlast : lastOfHalf s with
  | false =>
    have hmore : s.sqr.hc + 1 < s.cfg.half := not_le.mp (of_decide_eq_false hlast)
    rw [transferCycle_hold hshift hmore]
    exact h.holdHalf hshift hlast
  | true =>
    obtain ⟨hidle, hcommit⟩ := hshift
    have ⟨_, _, hpins, _⟩ := h
    unfold Machine.transferCycle
    rw [hlast]
    cases hphase : s.sqr.phase with
    | idle => exact absurd hphase hidle
    | commit => exact absurd hphase hcommit
    | phA =>
      rw [PinInv, hphase] at hpins
      exact h.startOutBit hidle hhalf (congrArg Pins.latch hpins) 0
    | phB =>
      rw [PinInv, hphase] at hpins
      obtain ⟨hlatch, -⟩ := hpins
      simp only [if_true]
      split_ifs
      · exact h.startPhC hidle hhalf
      · exact h.startOutBit hidle hhalf hlatch _
      · exact h.raiseSclk hhalf (.inl hphase)
    | phC =>
      rw [PinInv, hphase] at hpins
      exact h.startInBit hidle hhalf (congrArg Pins.latch hpins) (congrArg Pins.sdo hpins) 0
    | phD =>
      rw [PinInv, hphase] at hpins
      obtain ⟨hlatch, hsdo⟩ := hpins
      simp only [if_true]
      split_ifs
      · exact h.startCommit hidle hlatch hsdo
      · exact h.startInBit hidle hhalf hlatch hsdo _
      · have hsampled : BusInv (sampleSdi s) := h
        exact hsampled.raiseSclk hhalf (.inr hphase)

end Bus

section Engine

theorem passTime_lt (s : State) : passTime s < 2 ^ s.cfg.tw := portValue_lt s.cfg s.inp.now

/-- The COMMIT cycle keeps the invariant, whichever transfer it ends. -/
theorem EngineInv.commitTransfer (h : EngineInv s) (hcommit : s.sqr.phase = .commit) : EngineInv (commitTransfer s) := by
  obtain ⟨hregs, hbus⟩ := engineInv_iff.mp h
  refine engineInv_iff.mpr ?_
  unfold Machine.commitTransfer
  cases s.sqr.curOp with
  | sample => exact ⟨hregs.writeSnapshot.endTransfer, hbus.endTransfer hcommit⟩
  | tick => exact ⟨(hregs.writeSnapshot.classifyPass _ (passTime_lt s)).endTransfer, hbus.endTransfer hcommit⟩

theorem EngineInv.beginTransfer (h : EngineInv s) (hidle : s.sqr.phase = .idle) (hhalf : 1 ≤ s.cfg.half) (op : TransferOp) :
    EngineInv (beginTransfer op s) := by
  obtain ⟨hregs, hbus⟩ := engineInv_iff.mp h
  exact engineInv_iff.mpr ⟨hregs, hbus.beginTransfer hidle hhalf op⟩

theorem EngineInv.runTransfer (h : EngineInv s) (hflight : s.sqr.phase ≠ .idle) : EngineInv (runTransfer s) := by
  obtain ⟨hregs, hbus⟩ := engineInv_iff.mp h
  exact engineInv_iff.mpr ⟨hregs, hbus.runTransfer hflight⟩

theorem EngineInv.transferCycle (h : EngineInv s) (hflight : s.sqr.phase ≠ .idle) (hhalf : 1 ≤ s.cfg.half) :
    EngineInv (transferCycle s) := by
  by_cases hcommit : s.sqr.phase = .commit
  · rw [Machine.transferCycle, hcommit]
    exact h.commitTransfer hcommit
  · obtain ⟨hregs, hbus⟩ := engineInv_iff.mp h
    obtain ⟨hcfg, -⟩ := transferCycle_frame s
    exact engineInv_iff.mpr
      ⟨hregs.congr hcfg (transferCycle_regs hcommit), hbus.transferCycle ⟨hflight, hcommit⟩ hhalf⟩

/-- Every command of an idle engine keeps the invariant. -/
theorem EngineInv.exec {i : Instr} (h : EngineInv s) (hidle : s.sqr.phase = .idle) (hhalf : 1 ≤ s.cfg.half)
    (hexec : exec i s = .next t) : EngineInv t := by
  have ⟨hregs, hbus⟩ := engineInv_iff.mp h
  have hnone : errNone ≠ 3#2 := by decide
  have hrejected : errConfigRejected ≠ 3#2 := by decide
  cases i with
  | nop =>
    cases hexec
    exact engineInv_iff.mpr ⟨hregs.setLastErr hnone, hbus⟩
  | sample =>
    cases hexec
    exact ((h.beginTransfer hidle hhalf .sample).runTransfer (by simp)).commitTransfer rfl
  | tick =>
    cases hexec
    exact ((h.beginTransfer hidle hhalf .tick).runTransfer (by simp)).commitTransfer rfl
  | classify mask =>
    cases hexec
    exact engineInv_iff.mpr ⟨(hregs.classifyPass mask (passTime_lt s)).setLastErr hnone, hbus⟩
  | setbit line value =>
    cases hexec
    have hwritten : RegsInv (writeLine line value s) := hregs
    exact engineInv_iff.mpr ⟨hwritten.setLastErr hnone, hbus.writeLine hidle line value⟩
  | configure =>
    obtain hlt | hle := Nat.lt_or_ge (debOperand s) (lngOperand s)
    · rw [exec_configure_of_lt hlt] at hexec
      cases hexec
      exact engineInv_iff.mpr ⟨(hregs.reconfigure hlt (portValue_lt s.cfg s.inp.cmdArgB)).setLastErr hnone, hbus⟩
    · rw [exec_configure_of_le hle] at hexec
      cases hexec
      exact engineInv_iff.mpr ⟨hregs.setLastErr hrejected, hbus⟩

theorem EngineInv.acceptsWord {w : CmdWord} (h : EngineInv s) (hidle : s.sqr.phase = .idle) (hhalf : 1 ≤ s.cfg.half)
    (haccept : AcceptsWord w s t) : EngineInv t := by
  obtain ⟨why, -, rfl⟩ | ⟨i, -, hexec⟩ | ⟨-, rfl⟩ | ⟨-, rfl⟩ := haccept
  · obtain ⟨hregs, hbus⟩ := engineInv_iff.mp h
    exact engineInv_iff.mpr ⟨hregs.setLastErr (by decide), hbus⟩
  · exact h.exec hidle hhalf hexec
  · exact h.beginTransfer hidle hhalf .sample
  · exact h.beginTransfer hidle hhalf .tick

/-- Whatever the engine was doing, reset establishes the invariant. -/
theorem engineInv_loadReset (hlegal : s.cfg.legal = true) : EngineInv (loadReset s) :=
  engineInv_iff.mpr ⟨RegsInv.loadReset hlegal, BusInv.loadReset s⟩

/-- Settles O48: a step is one of four things, and each keeps the invariant. -/
theorem stepKeepsTheInvariant : Obligations.StepKeepsTheInvariant := by
  intro s t h hstep
  obtain ⟨hlegal, s', hsame, hcases⟩ := step_cases hstep
  have h' : EngineInv s' := h.of_sameEngine hsame
  obtain ⟨hcfg, -, hsqr, -⟩ := hsame
  obtain ⟨-, -, hhalf, -⟩ := legal_iff.mp hlegal
  rw [← hcfg] at hhalf
  obtain rfl | ⟨rfl, -⟩ | ⟨hidle, _, w, _, _, _, -, -, -, -, haccept⟩ | ⟨hflight, rfl⟩ := hcases
  · exact h'
  · exact engineInv_loadReset (hcfg ▸ hlegal)
  · exact h'.acceptsWord (hsqr ▸ hidle) hhalf haccept
  · exact h'.transferCycle (hsqr ▸ hflight) hhalf

/-- Settles O47: the state after reset is what a reset loads. -/
theorem invariantHoldsAtReset : Obligations.InvariantHoldsAtReset :=
  engineInv_loadReset (s := State.reset) (by decide)

/-- Settles O49: by induction on the run; only the engine's own state is asked about, so the inputs may be replaced. -/
theorem reachableStatesSatisfyTheInvariant : Obligations.ReachableStatesSatisfyTheInvariant := by
  intro s hs
  induction hs with
  | reset c inp host sdi n hlegal =>
    exact engineInv_loadReset
      (s := { State.reset with cfg := c, inp := inp, host := host, sdi := sdi, sdiDrawn := n }) hlegal
  | step s t _ hstep ih => exact stepKeepsTheInvariant s t ih hstep
  | input s inp host sdi _ ih => exact ih.of_sameEngine ⟨rfl, rfl, rfl, rfl⟩

/-- Eight bits fit a port of a legal configuration, whose TW is at least 12. -/
theorem two_pow_eight_le_of_legal {c : Config.Params} (hlegal : c.legal = true) : 2 ^ 8 ≤ 2 ^ c.tw := by
  obtain ⟨-, -, -, htw⟩ := legal_iff.mp hlegal
  exact Nat.pow_le_pow_right (by decide) (by omega)

/-- R30: STATUS has three bits. -/
theorem statusWord_lt (r : Regs) : statusWord r < 2 ^ 8 := by
  have hbusy := r.busy.toNat_lt
  have herr := r.lastErr.isLt
  rw [statusWord_eq_add]
  omega

/-- Settles O55: STATUS and the byte registers fit because TW is at least 12, the time registers by the invariant. -/
theorem readDataFitsThePort : Obligations.ReadDataFitsThePort := by
  rintro s a hlegal ⟨-, -, ⟨hdeb, hlongth, hstart⟩, -⟩
  have hbyte (x : Byte) : x.toNat < 2 ^ s.cfg.tw := x.isLt.trans_le (two_pow_eight_le_of_legal hlegal)
  unfold readPort
  split
  case h_1 => exact (statusWord_lt _).trans_le (two_pow_eight_le_of_legal hlegal)
  case h_2 | h_3 | h_4 | h_5 | h_6 | h_9 => exact hbyte _
  case h_7 => exact hdeb
  case h_8 => exact hlongth
  case h_10 => exact hstart .right
  case h_11 => exact hstart .ok
  case h_12 => exact hstart .up
  case h_13 => exact hstart .left
  case h_14 => exact hstart .start
  case h_15 => exact hstart .down
  case h_16 => exact hstart .stop
  case h_17 => exact hstart .home
  case h_18 => exact Nat.two_pow_pos _

end Engine

end Sys2Proof.Machine
end

section
/-! PROOFS, the step and the host's side of the ports (spec/60_exceptions.md R207, spec/43_control.md R175): what a step is for each
move of the host, and that a legal machine never stops (R10, R200). -/

namespace Sys2Proof.Machine

section Moves
variable {s : State} {rest : List HostMove} {w : CmdWord} {a b : Nat} (hlegal : s.cfg.legal = true)
include hlegal

theorem step_of_legal : step s = hostStep s := if_pos hlegal

/-- A command with the port free is taken from the script and runs to its commit. -/
theorem step_command_of_idle (hidle : s.sqr.phase = .idle) (hhost : s.host = .command w a b :: rest) :
    step s = issue w (offered w a b rest s) := by
  rw [step_of_legal hlegal, hostStep, hhost]
  exact if_pos ((cmdReady_iff (s := driveCommand w a b s)).mpr ⟨rfl, hidle⟩)

/-- A command with a transfer in flight holds the port for one cycle. -/
theorem step_command_of_busy (hbusy : s.sqr.phase ≠ .idle) (hhost : s.host = .command w a b :: rest) :
    step s = clock (driveCommand w a b s) := by
  rw [step_of_legal hlegal, hostStep, hhost]
  refine if_neg fun hready => ?_
  obtain ⟨-, hidle⟩ := cmdReady_iff.mp hready
  exact hbusy hidle

theorem step_nil (hhost : s.host = []) : step s = clock (driveIdle s) := by
  rw [step_of_legal hlegal, hostStep, hhost]

theorem step_offer (hhost : s.host = .offer w a b :: rest) : step s = clock (offered w a b rest s) := by
  rw [step_of_legal hlegal, hostStep, hhost]

theorem step_cycle {r v : Bool} (hhost : s.host = .cycle r v w a b :: rest) :
    step s = clock (withHost rest (drivePorts r v w a b s)) := by
  rw [step_of_legal hlegal, hostStep, hhost]

theorem step_idle (hhost : s.host = .idle :: rest) : step s = clock (withHost rest (driveIdle s)) := by
  rw [step_of_legal hlegal, hostStep, hhost]

theorem step_rst (hhost : s.host = .rst :: rest) : step s = clock (withHost rest (driveReset s)) := by
  rw [step_of_legal hlegal, hostStep, hhost]

theorem step_now {t : Nat} (hhost : s.host = .now t :: rest) :
    step s = .next { s with host := rest, inp := { s.inp with now := t } } := by
  rw [step_of_legal hlegal, hostStep, hhost]

theorem step_sdi {levels : List Bool} (hhost : s.host = .sdi levels :: rest) :
    step s = .next { s with host := rest, sdi := levels } := by
  rw [step_of_legal hlegal, hostStep, hhost]

theorem step_read {addr : ReadAddr} (hhost : s.host = .read addr :: rest) :
    step s = .next { s with host := rest, inp := { s.inp with rdAddr := addr } } := by
  rw [step_of_legal hlegal, hostStep, hhost]

end Moves

/-- Settles O10: the step issues the word, which runs the decoded command or is `illegalWord`. -/
theorem stepRunsTheDecodedCommand : Obligations.StepRunsTheDecodedCommand := by
  intro s w a b rest hlegal hidle hhost
  rw [step_command_of_idle hlegal hidle hhost]
  exact ⟨fun i hdecode => by rw [issue, hdecode], fun hillegal => issue_of_not_isLegal hillegal⟩

/-- Settles O11: move by move. -/
theorem hostMovesDriveThePorts : Obligations.HostMovesDriveThePorts := fun _ _ hlegal =>
  ⟨step_nil hlegal, step_idle hlegal, step_rst hlegal, fun _ _ _ => step_offer hlegal, fun _ _ _ _ _ => step_cycle hlegal,
    fun _ => step_now hlegal, fun _ => step_sdi hlegal, fun _ => step_read hlegal⟩

/-- Settles O56: `now` and the read address are driven first, and the third move drives the other five ports. -/
theorem hostCanDriveEveryPortLevel : Obligations.HostCanDriveEveryPortLevel := by
  intro s inp rest hlegal
  refine ⟨_, _, step_now ?_ rfl, step_read ?_ rfl, step_cycle ?_ rfl⟩ <;> exact hlegal

/-- Settles O57: the cycle is a reset, whatever else the move drives. -/
theorem wordOfferedUnderResetIsNotTaken : Obligations.WordOfferedUnderResetIsNotTaken := by
  intro s v w a b rest hlegal hhost
  have hreset : step s = .next (loadReset (withHost rest (drivePorts true v w a b s))) :=
    (step_cycle hlegal hhost).trans (clock_of_rst rfl)
  exact ⟨_, hreset, get_tstart_reset s.cfg, rfl, rfl, rfl, rfl, rfl, rfl, rfl, rfl, rfl, rfl, rfl, rfl, rfl, rfl, rfl, rfl,
    rfl, rfl⟩

/-- A table word that names a command decodes to it. -/
theorem decode_of_decodeTableWord {nbits w : Nat} {i : Instr} (h : decodeTableWord nbits w = some i) :
    decode (BitVec.ofNat 16 w) = .instr i := by
  unfold decodeTableWord at h
  split at h
  case isTrue =>
    split at h
    case h_1 hdecode => rw [hdecode, Option.some.inj h]
    case h_2 => cases h
  case isFalse => cases h

/-- Settles O12: with the port freed, the placed word is issued at once. -/
theorem fetchedWordRunsNext : Obligations.FetchedWordRunsNext := by
  intro s w i hlegal htable
  have hissue : step (s.withFetchWord 16 w) = issue (BitVec.ofNat 16 w) _ := step_command_of_idle hlegal rfl rfl
  rw [issue, decode_of_decodeTableWord htable] at hissue
  exact ⟨_, hissue, rfl, rfl, rfl, rfl, rfl, rfl, rfl, rfl, rfl, rfl⟩

/-- Settles O17: the step is one cycle of the transfer, which leaves the script, EXT and the thresholds alone. -/
theorem commandWaitsForReady : Obligations.CommandWaitsForReady := by
  intro s w a b rest hlegal hbusy hhost
  have hwait := step_command_of_busy hlegal hbusy hhost
  have hclock : clock (driveCommand w a b s) = .next (transferCycle (driveCommand w a b s)) := clock_busy rfl hbusy
  obtain ⟨-, -, hscript, hext, hdeb, hlongth⟩ := transferCycle_frame (driveCommand w a b s)
  exact ⟨_, hwait.trans hclock, hwait, hscript.trans hhost, hext, hdeb, hlongth⟩

/-- The read port looks at the configuration and the registers alone. -/
theorem readPort_congr {s t : State} (hcfg : t.cfg = s.cfg) (hregs : t.regs = s.regs) (a : ReadAddr) :
    readPort t a = readPort s a := by
  obtain ⟨cfg, regs, sqr, pins, inp, host, sdi, sdiDrawn⟩ := t
  obtain rfl : cfg = s.cfg := hcfg
  obtain rfl : regs = s.regs := hregs
  rfl

/-- Settles O42: the step drives the read address only, and no address reads anything of the ports. -/
theorem readsHaveNoSideEffect : Obligations.ReadsHaveNoSideEffect := by
  intro s a rest hlegal hhost
  exact ⟨_, step_read hlegal hhost, rfl, readPort_congr rfl rfl a, readPort_congr rfl rfl⟩

/-- Settles O15: SAMPLE and TICK run their transfer, the others commit at once. -/
theorem everyCommandCompletes : Obligations.EveryCommandCompletes := by
  intro i s
  by_cases hsample : i = .sample
  · exact hsample ▸ ⟨_, rfl⟩
  by_cases htick : i = .tick
  · exact htick ▸ ⟨_, rfl⟩
  obtain ⟨t, hexec, -⟩ := exec_of_no_transfer hsample htick s
  exact ⟨t, hexec⟩

theorem exists_next_acceptWord (w : CmdWord) (s : State) : ∃ t, acceptWord w s = .next t := by
  rw [acceptWord]
  cases decode w with
  | illegal why => exact ⟨_, rfl⟩
  | instr i =>
    cases i with
    | sample | tick => exact ⟨_, rfl⟩
    | nop | classify | setbit | configure => exact everyCommandCompletes _ s

theorem exists_next_clock (s : State) : ∃ t, clock s = .next t := by
  unfold clock
  split_ifs
  · exact ⟨_, rfl⟩
  · exact exists_next_acceptWord s.inp.cmdWord s
  · exact ⟨_, rfl⟩
  · exact ⟨_, rfl⟩

theorem exists_next_issue (w : CmdWord) (s : State) : ∃ t, issue w s = .next t := by
  rw [issue]
  cases decode w with
  | illegal why => exact ⟨_, rfl⟩
  | instr i => exact everyCommandCompletes i s

theorem exists_next_hostStep (s : State) : ∃ t, hostStep s = .next t := by
  unfold hostStep
  split
  case h_2 =>
    split_ifs
    · exact exists_next_issue _ _
    · exact exists_next_clock _
  case h_1 | h_3 | h_4 | h_5 | h_6 => exact exists_next_clock _
  case h_7 | h_8 | h_9 => exact ⟨_, rfl⟩

/-- Settles O14: `legal` is R10 and R8's range of TW, and the step of a legal machine is a move, which always ends. -/
theorem onlyIllegalConfigurationsStop : Obligations.OnlyIllegalConfigurationsStop := by
  intro s
  rw [← legal_iff]
  refine ⟨fun hlegal => ?_, fun hillegal => if_neg hillegal⟩
  rw [step_of_legal hlegal]
  exact exists_next_hostStep s

/-- Settles O46: the default thresholds are those of the reset state, and what CONFIGURE clears is clear. -/
theorem defaultConfigureKeepsTheResetState : Obligations.DefaultConfigureKeepsTheResetState :=
  exec_configure_of_lt (by decide)

/-- Settles O41: bit 0 is BUSY, the next two are LAST_ERR shifted by one, and no field has a higher bit. -/
theorem statusFields : Obligations.StatusFields := by
  intro s n
  change (s.regs.lastErr.toNat <<< 1 ||| s.regs.busy.toNat).testBit n = _
  rw [Nat.testBit_or, Nat.testBit_shiftLeft, BitVec.testBit_toNat, Nat.testBit_bool_toNat]
  match n with
  | 0 => simp
  | 1 => simp
  | 2 => simp
  | n + 3 => simp

end Sys2Proof.Machine
end

section
/-! PROOFS, the commands run to their commit: the snapshot of SAMPLE and TICK (spec/40_transport_sampler.md), and TICK as a SAMPLE
and a CLASSIFY (spec/41_classifier.md R136). -/

namespace Sys2Proof.Machine

/-- Both transfers take eight levels, and their snapshot is the byte these assemble to and its complement (R111, R112). -/
theorem exec_snapshot {i : Instr} (hi : i = .sample ∨ i = .tick) (s : State) :
    ∃ t, exec i s = .next t ∧ t.regs.rawin = assemble s.cfg.shiftIn (fun k => sdiLevel s k.val) ∧
      t.regs.pressed = ~~~t.regs.rawin ∧ t.sdi = s.sdi.drop 8 := by
  obtain rfl | rfl := hi <;> exact ⟨_, rfl, rfl, rfl, rfl⟩

/-- Settles O20: the raw byte holds each level at its serial position, and the rest is what the commit leaves. -/
theorem sampleTakesOneSnapshot : Obligations.SampleTakesOneSnapshot := by
  intro s
  refine ⟨commitSample (runTransfer (beginTransfer .sample s)), rfl, fun k horder => ?_, fun k horder => ?_, fun j => ?_, rfl,
    rfl, rfl, rfl, rfl, rfl, rfl, rfl, fun n => sdiLevel_advance 8 n s⟩
  · rw [← getLsbD_assemble_serialPos s.cfg.shiftIn (fun k => sdiLevel s k.val) k, horder]
    exact congrArg (fun o => (assemble o fun k => sdiLevel s k.val).getLsbD (7 - k.val)) horder
  · rw [← getLsbD_assemble_serialPos s.cfg.shiftIn (fun k => sdiLevel s k.val) k, horder]
    exact congrArg (fun o => (assemble o fun k => sdiLevel s k.val).getLsbD k.val) horder
  · exact (BitVec.getLsbD_not ..).trans (by rw [decide_eq_true j.isLt, Bool.true_and]; rfl)

/-- Settles O21: the listed levels are those taken, and they assemble to the byte. -/
theorem everyRawByteIsPossible : Obligations.EveryRawByteIsPossible := by
  intro s raw later i hi
  obtain ⟨t, hexec, hraw, hpressed, hsdi⟩ :=
    exec_snapshot hi { s with sdi := levelsOf s.cfg.shiftIn raw ++ later }
  have hlevels (k : Fin 8) : sdiLevel { s with sdi := levelsOf s.cfg.shiftIn raw ++ later } k.val =
      raw.getLsbD (serialPos s.cfg.shiftIn k).val := sdiLevel_listed (getElem_levelsOf _ raw later k)
  rw [funext hlevels, assemble_levels] at hraw
  refine ⟨t, hexec, hraw, hraw ▸ hpressed, hsdi.trans ?_⟩
  exact List.drop_left' (length_levelsOf _ raw)

/-- Settles O23: both commit the same snapshot and make the same pass; CUR_OP remembers the transfer's command. -/
theorem tickIsSampleThenClassify : Obligations.TickIsSampleThenClassify := fun _ =>
  ⟨_, _, _, rfl, rfl, rfl, rfl⟩

/-- Settles O24: the buttons by CLASSIFY's transitions, because a TICK is a SAMPLE followed by a CLASSIFY and SAMPLE leaves the
classifier alone. -/
theorem tickSamplesAndClassifies : Obligations.TickSamplesAndClassifies := by
  intro s t htime
  refine ⟨commitTick (runTransfer (beginTransfer .tick s)), rfl, rfl, rfl, fun b => ?_, rfl, rfl, rfl, rfl, rfl, rfl, rfl, rfl,
    rfl, rfl, rfl, fun n => sdiLevel_advance 8 n s⟩
  obtain ⟨-, hclassify⟩ := classifyTakesEachButtonsTransition
  obtain ⟨u, hexec, hbuttons, -⟩ :=
    hclassify (~~~(runTransfer s).sqr.sh) (commitSample (runTransfer (beginTransfer .sample s))) t htime
  cases hexec
  obtain ⟨hbegin, hhold, hidle, hrelease, hview⟩ := hbuttons b
  exact ⟨fun hm ht => hhold ht hm, fun hm ht => hbegin ht hm, fun hm ht => hidle ht hm, fun hm ht => hrelease ht hm, hview⟩

end Sys2Proof.Machine
end

section
/-! PROOFS, the classifier (spec/41_classifier.md): one button's result rests on that button alone, so the loop of R134 is the pass
in any order (R130); and the duration in natural numbers (R137). -/

namespace Sys2Proof.Machine

/-- R130: all that a button's result rests on. -/
theorem passButton_congr {s s' : State} {m m' : Byte} {b : Button} (hmode : s'.cfg.sentinel = s.cfg.sentinel)
    (htw : s'.cfg.tw = s.cfg.tw) (hdeb : s'.regs.deb = s.regs.deb) (hlongth : s'.regs.longth = s.regs.longth)
    (htrack : bitOf s'.regs.track b = bitOf s.regs.track b) (hstart : s'.regs.tstart.get b = s.regs.tstart.get b)
    (hm : bitOf m' b = bitOf m b) (t : Nat) : passButton s' m' t b = passButton s m t b := by
  have hsub : subTW s'.cfg = subTW s.cfg := by unfold subTW; rw [htw]
  rw [passButton_cases, passButton_cases, tracking, tracking, hmode, hdeb, hlongth, htrack, hstart, hm, hsub]

/-- Settles O29: each of the four registers a pass writes holds button b's result at b. -/
theorem buttonsAreClassifiedIndependently : Obligations.ButtonsAreClassifiedIndependently := by
  intro s s' m m' t b hmode htw hdeb hlongth htrack hstart hm
  have hresult := passButton_congr hmode htw hdeb hlongth htrack hstart hm t
  simp only [bitOf_classifyPass_track, get_classifyPass_tstart, bitOf_classifyPass_short, bitOf_classifyPass_long, hresult,
    and_self]

/-- Setting a mask's bit to what `f` gives for its button extends the buttons for which the mask holds `f`. -/
theorem setBitOf_maskOf (visited : List Button) (f g : Button → Bool) (b : Button) :
    setBitOf (maskOf fun c => if c ∈ visited then f c else g c) b (f b) =
      maskOf fun c => if c ∈ b :: visited then f c else g c := by
  refine mask_ext fun c => ?_
  by_cases hc : c = b <;> simp [hc]

/-- The same of a per-button file. -/
theorem PerButton.put_ofFn {α : Type} (visited : List Button) (f g : Button → α) (b : Button) :
    (PerButton.ofFn fun c => if c ∈ visited then f c else g c).put b (f b) =
      PerButton.ofFn fun c => if c ∈ b :: visited then f c else g c := by
  refine PerButton.ext_get fun c => ?_
  by_cases hc : c = b <;> simp [hc]

section Loop
variable (visited : List Button) (m : Byte) (t : Nat) (s : State)

/-- The state of R134's loop when it has visited some of the buttons: these have their results, the others their old tracks and
no event. -/
def passOver : State :=
  { s with regs := { s.regs with
      track := maskOf (fun b => if b ∈ visited then (passButton s m t b).track else bitOf s.regs.track b)
      tstart := PerButton.ofFn (fun b => if b ∈ visited then (passButton s m t b).tstart else s.regs.tstart.get b)
      short := maskOf (fun b => if b ∈ visited then (passButton s m t b).short else false)
      long := maskOf (fun b => if b ∈ visited then (passButton s m t b).long else false) } }

/-- The loop starts from SHORT = LONG = 0. -/
theorem passOver_nil : passOver [] m t s = { s with regs := { s.regs with short := 0, long := 0 } } := by
  have hnone : maskOf (fun _ => false) = (0 : Byte) := mask_ext (by simp)
  have htstart : PerButton.ofFn (fun b => s.regs.tstart.get b) = s.regs.tstart := PerButton.ofFn_get _
  have htrack : maskOf (fun b => bitOf s.regs.track b) = s.regs.track := maskOf_bitOf _
  simp only [passOver, List.not_mem_nil, if_false, hnone, htrack, htstart]

/-- A loop that has visited every button has made the pass. -/
theorem passOver_of_forall_mem (hall : ∀ b, b ∈ visited) : passOver visited m t s = classifyPass m t s := by
  simp only [passOver, hall, if_true]
  rfl

variable {visited} {b : Button}

/-- A button not yet visited has the result that the pass has for it. -/
theorem passButton_passOver (hb : b ∉ visited) : passButton (passOver visited m t s) m t b = passButton s m t b :=
  passButton_congr (s' := passOver visited m t s) (s := s) rfl rfl rfl rfl (by simp [passOver, hb]) (by simp [passOver, hb])
    rfl t

/-- One turn of the loop, at a button not yet visited. -/
theorem visitButton_passOver (hb : b ∉ visited) :
    visitButton m t (passOver visited m t s) b = passOver (b :: visited) m t s := by
  simp only [visitButton, passButton_passOver m t s hb]
  simp only [passOver, setBitOf_maskOf, PerButton.put_ofFn]

/-- The rest of the loop, over buttons each visited once. -/
theorem foldl_visitButton_passOver {order visited : List Button} (hnodup : order.Nodup)
    (hnew : ∀ b ∈ order, b ∉ visited) :
    order.foldl (visitButton m t) (passOver visited m t s) = passOver (order.reverse ++ visited) m t s := by
  induction order generalizing visited with
  | nil => rfl
  | cons b bs ih =>
    obtain ⟨hb, hbs⟩ := List.nodup_cons.mp hnodup
    have hrest : ∀ c ∈ bs, c ∉ b :: visited := fun c hc hmem => by
      obtain rfl | hvisited := List.mem_cons.mp hmem
      · exact hb hc
      · exact hnew c (List.mem_cons_of_mem b hc) hvisited
    rw [List.foldl_cons, visitButton_passOver m t s (hnew b List.mem_cons_self), ih hbs hrest]
    simp

end Loop

/-- Settles O28: the loop's state is `passOver` of the buttons visited, by induction on the order, and in the end these are all. -/
theorem passIsTheLoopInAnyOrder : Obligations.PassIsTheLoopInAnyOrder := by
  intro order m t s hnodup hall
  rw [passLoop, ← passOver_nil m t s, foldl_visitButton_passOver m t s hnodup (fun _ _ => List.not_mem_nil)]
  exact passOver_of_forall_mem _ m t s fun b => by simpa using hall b

/-- Settles O34: the duration is (t + 2^TW - start) mod 2^TW, and the sum is at least 2^TW exactly when `now` has not gone back. -/
theorem durationIsTheModularDifference : Obligations.DurationIsTheModularDifference := by
  intro c start t hstart ht
  have hduration := subTW_eq_mod (a := t) hstart
  have hmonotonic : start ≤ t → subTW c t start = t - start := fun hle => by
    rw [hduration, Nat.sub_add_comm hle, Nat.add_mod_right, Nat.mod_eq_of_lt (by omega)]
  have hback : t < start → subTW c t start = 2 ^ c.tw + t - start := fun hlt => by
    rw [hduration, Nat.mod_eq_of_lt (by omega), Nat.add_comm]
  refine ⟨subTW_lt c t start, ?_, hmonotonic, hback⟩
  obtain hlt | hle := Nat.lt_or_ge t start
  · rw [hback hlt, Nat.sub_add_cancel (by omega), Nat.add_mod_left, Nat.mod_eq_of_lt ht]
  · rw [hmonotonic hle, Nat.sub_add_cancel hle, Nat.mod_eq_of_lt ht]

end Sys2Proof.Machine
end

section
/-! PROOFS, who writes what (spec/10_state.md R20): the frame of each command, and from it what a step can do to EXT and to the
thresholds. -/

namespace Sys2Proof.Machine

variable {s s' t : State} {i : Instr}

section Frames
variable (h : exec i s = .next t)
include h

/-- R29: the thresholds are CONFIGURE's alone. -/
theorem exec_thresholds (hi : i ≠ .configure) : t.regs.deb = s.regs.deb ∧ t.regs.longth = s.regs.longth := by
  cases i with
  | configure => exact absurd rfl hi
  | nop | sample | tick | classify mask | setbit line value =>
    cases h
    exact ⟨rfl, rfl⟩

/-- CONFIGURE keeps the thresholds or sets them to the operands, which are in order, and clears the classifier. -/
theorem exec_configure_cases (hi : i = .configure) :
    (lngOperand s ≤ debOperand s ∧ t = setLastErr errConfigRejected s) ∨
      (debOperand s < lngOperand s ∧ t = setLastErr errNone (reconfigure (debOperand s) (lngOperand s) s)) := by
  subst hi
  obtain hlt | hle := Nat.lt_or_ge (debOperand s) (lngOperand s)
  · rw [exec_configure_of_lt hlt] at h
    exact .inr ⟨hlt, (Host.Outcome.next.inj h).symm⟩
  · rw [exec_configure_of_le hle] at h
    exact .inl ⟨hle, (Host.Outcome.next.inj h).symm⟩

/-- R28: EXT is SETBIT's alone. -/
theorem exec_ext (hi : ∀ line value, i ≠ .setbit line value) : t.regs.ext = s.regs.ext := by
  cases i with
  | setbit line value => exact absurd rfl (hi line value)
  | nop | sample | tick | classify mask =>
    cases h
    rfl
  | configure => obtain ⟨-, rfl⟩ | ⟨-, rfl⟩ := exec_configure_cases h rfl <;> rfl

/-- The classifier's registers are those of CLASSIFY, TICK and an accepted CONFIGURE. -/
theorem exec_classifier (hclassify : ∀ m, i ≠ .classify m) (htick : i ≠ .tick)
    (hconfigure : i = .configure → lngOperand s ≤ debOperand s) :
    t.regs.short = s.regs.short ∧ t.regs.long = s.regs.long ∧ t.regs.track = s.regs.track ∧
      t.regs.tstart = s.regs.tstart := by
  cases i with
  | tick => exact absurd rfl htick
  | classify mask => exact absurd rfl (hclassify mask)
  | nop | sample | setbit line value =>
    cases h
    exact ⟨rfl, rfl, rfl, rfl⟩
  | configure =>
    obtain ⟨-, rfl⟩ | ⟨hlt, -⟩ := exec_configure_cases h rfl
    · exact ⟨rfl, rfl, rfl, rfl⟩
    · exact absurd (hconfigure rfl) hlt.not_ge

/-- The snapshot, BUSY, the bus and the board's levels are those of SAMPLE and TICK. -/
theorem exec_bus (hsample : i ≠ .sample) (htick : i ≠ .tick) :
    t.regs.pressed = s.regs.pressed ∧ t.regs.rawin = s.regs.rawin ∧ t.regs.busy = s.regs.busy ∧ SameBus s t ∧
      SameOutside s t := by
  cases i with
  | sample => exact absurd rfl hsample
  | tick => exact absurd rfl htick
  | nop | classify mask | setbit line value =>
    cases h
    exact ⟨rfl, rfl, rfl, ⟨rfl, rfl⟩, ⟨rfl, rfl, rfl, rfl, rfl⟩⟩
  | configure =>
    obtain ⟨-, rfl⟩ | ⟨-, rfl⟩ := exec_configure_cases h rfl <;>
      exact ⟨rfl, rfl, rfl, ⟨rfl, rfl⟩, ⟨rfl, rfl, rfl, rfl, rfl⟩⟩

/-- No command touches the configuration, the input ports or the host's script. -/
theorem exec_outside : t.cfg = s.cfg ∧ t.inp = s.inp ∧ t.host = s.host := by
  cases i with
  | nop | sample | tick | classify mask | setbit line value =>
    cases h
    exact ⟨rfl, rfl, rfl⟩
  | configure => obtain ⟨-, rfl⟩ | ⟨-, rfl⟩ := exec_configure_cases h rfl <;> exact ⟨rfl, rfl, rfl⟩

end Frames

/-- Settles O38: the frames above, and the code of LAST_ERR by the command. -/
theorem commandsWriteOnlyTheirRegisters : Obligations.CommandsWriteOnlyTheirRegisters := by
  intro i s t h
  obtain ⟨hcfg, hinp, hhost⟩ := exec_outside h
  have hcode := lastErr_of_exec h
  have hwritten : t.regs.lastErr ≠ 3#2 ∧ t.regs.lastErr ≠ 1#2 ∧ (t.regs.lastErr = 2#2 → i = .configure) := by
    rw [hcode]
    split_ifs with hrejected
    · exact ⟨by decide, by decide, fun _ => hrejected.1⟩
    · exact ⟨by decide, by decide, fun h2 => absurd h2 (by decide)⟩
  exact ⟨exec_thresholds h, exec_ext h, fun hclassify htick hconfigure =>
    exec_classifier h hclassify htick fun hi => absurd hi hconfigure, exec_bus h, hcfg, hinp, hhost, hwritten⟩

/-- A CLASSIFY or TICK leaves events only of buttons that its own pass released. -/
theorem exec_pass_event (hi : i = .tick ∨ ∃ m, i = .classify m) (h : exec i s = .next t) {b : Button}
    (hevent : bitOf t.regs.short b = true ∨ bitOf t.regs.long b = true) : tracking s b = true ∧ tracking t b = false := by
  obtain ⟨hpass, -⟩ := eventsOnlyOnRelease
  obtain rfl | ⟨m, rfl⟩ := hi
  · cases h
    obtain ⟨ht, -, hidle, -⟩ := hpass _ _ (writeSnapshot (runTransfer (beginTransfer .tick s))) b hevent
    exact ⟨ht, hidle⟩
  · cases h
    obtain ⟨ht, -, hidle, -⟩ := hpass m (passTime s) s b hevent
    exact ⟨ht, hidle⟩

/-- Settles O37: the frame of the classifier's registers, the events of a pass, and what an accepted CONFIGURE clears. -/
theorem eventsLastOnePass : Obligations.EventsLastOnePass := by
  refine ⟨fun i s t h => ⟨fun hi => ?_, fun hi b hevent => exec_pass_event hi h hevent, fun hi hlt => ?_⟩,
    fun w s hillegal => ⟨_, issue_of_not_isLegal hillegal, rfl, rfl, rfl, rfl⟩⟩
  · obtain rfl | rfl | ⟨line, value, rfl⟩ | ⟨rfl, hle⟩ := hi
    · exact exec_classifier h nofun nofun nofun
    · exact exec_classifier h nofun nofun nofun
    · exact exec_classifier h nofun nofun nofun
    · exact exec_classifier h nofun nofun fun _ => hle
  · obtain ⟨hle, -⟩ | ⟨-, rfl⟩ := exec_configure_cases h hi
    · exact absurd hle hlt.not_ge
    · exact ⟨rfl, rfl⟩

/-- An accepted word that changes EXT is a SETBIT's. -/
theorem AcceptsWord.setbit_of_ext_ne {w : CmdWord} (h : AcceptsWord w s t) (hne : t.regs.ext ≠ s.regs.ext) :
    ∃ line value, decode w = .instr (.setbit line value) ∧ t.regs.ext = setLine s.regs.ext line value := by
  obtain ⟨why, -, rfl⟩ | ⟨i, hdecode, hexec⟩ | ⟨-, rfl⟩ | ⟨-, rfl⟩ := h
  · exact absurd rfl hne
  · cases i with
    | setbit line value =>
      cases hexec
      exact ⟨line, value, hdecode, rfl⟩
    | nop | sample | tick | classify mask | configure => exact absurd (exec_ext hexec nofun) hne
  · exact absurd rfl hne
  · exact absurd rfl hne

/-- Settles O35: of the four things a step can be, a reset loads EXT_RESET and an accepted SETBIT writes its line. -/
theorem onlySetbitOrResetChangesExt : Obligations.OnlySetbitOrResetChangesExt := by
  intro s t hstep hne
  obtain ⟨-, s', ⟨hcfg, hregs, -, -⟩, hcases⟩ := step_cases hstep
  rw [← hregs] at hne ⊢
  obtain rfl | ⟨rfl, m, rest, hhost, hreset⟩ | ⟨hidle, m, w, a, b, rest, hhost, hoffer, -, -, haccept⟩ |
    ⟨-, rfl⟩ := hcases
  · exact absurd rfl hne
  · exact .inl ⟨m, rest, hhost, hreset, congrArg Config.Params.extReset hcfg⟩
  · obtain ⟨line, value, hdecode, hext⟩ := haccept.setbit_of_ext_ne hne
    exact .inr ⟨m, w, a, b, rest, line, value, hhost, hoffer, hidle, hdecode, hext⟩
  · obtain ⟨-, -, -, hext, -⟩ := transferCycle_frame s'
    exact absurd hext hne

/-- An accepted word that changes a threshold is an accepted CONFIGURE's. -/
theorem AcceptsWord.configure_of_threshold_ne {w : CmdWord} (h : AcceptsWord w s t)
    (hne : t.regs.deb ≠ s.regs.deb ∨ t.regs.longth ≠ s.regs.longth) :
    decode w = .instr .configure ∧ debOperand s < lngOperand s ∧
      t = setLastErr errNone (reconfigure (debOperand s) (lngOperand s) s) := by
  have hchanged : ¬(t.regs.deb = s.regs.deb ∧ t.regs.longth = s.regs.longth) := not_and_or.mpr hne
  obtain ⟨why, -, rfl⟩ | ⟨i, hdecode, hexec⟩ | ⟨-, rfl⟩ | ⟨-, rfl⟩ := h
  · exact absurd ⟨rfl, rfl⟩ hchanged
  · by_cases hi : i = .configure
    · obtain ⟨-, rfl⟩ | ⟨hlt, ht⟩ := exec_configure_cases hexec hi
      · exact absurd ⟨rfl, rfl⟩ hchanged
      · exact ⟨hi ▸ hdecode, hlt, ht⟩
    · exact absurd (exec_thresholds hexec hi) hchanged
  · exact absurd ⟨rfl, rfl⟩ hchanged
  · exact absurd ⟨rfl, rfl⟩ hchanged

/-- R36: after reset no button is tracked, in either mode. -/
theorem noTracks_loadReset (s : State) : noTracks (loadReset s) := by
  intro b
  cases hmode : s.cfg.sentinel <;> simp [tracking, isTracking, hmode]

/-- Settles O36: of the four things a step can be, a reset and an accepted CONFIGURE change the thresholds, and both clear the
classifier. -/
theorem thresholdChangesEndEveryTrack : Obligations.ThresholdChangesEndEveryTrack := by
  intro s t hstep hne
  obtain ⟨-, s', ⟨hcfg, hregs, -, -⟩, hcases⟩ := step_cases hstep
  rw [← hregs] at hne
  obtain rfl | ⟨rfl, hreset⟩ | ⟨-, m, w, a, b, rest, hhost, hoffer, ha, hb, haccept⟩ | ⟨-, rfl⟩ := hcases
  · exact absurd hne (by simp)
  · exact ⟨noTracks_loadReset s', rfl, rfl, .inl hreset⟩
  · obtain ⟨hdecode, hlt, rfl⟩ := haccept.configure_of_threshold_ne hne
    have hdeb : debOperand s' = portValue s.cfg a := by rw [debOperand, hcfg, ha]
    have hlng : lngOperand s' = portValue s.cfg b := by rw [lngOperand, hcfg, hb]
    rw [hdeb, hlng] at hlt ⊢
    exact ⟨noTracks_reconfigure (portValue s.cfg a) (portValue s.cfg b) s', rfl, rfl,
      .inr ⟨m, w, a, b, rest, hhost, hoffer, hdecode, hlt, rfl, rfl⟩⟩
  · obtain ⟨-, -, -, -, hdeb, hlongth⟩ := transferCycle_frame s'
    exact absurd hne (by simp [hdeb, hlongth])

end Sys2Proof.Machine
end

section
/-! PROOFS, the transfer at the clock (spec/40_transport_sampler.md R101): the cycle in which each half-period starts, by induction
on the bit, then every cycle inside it; from these the waveform, BUSY, the reads, and the collapsed commands. -/

namespace Sys2Proof.Machine

variable {s t u : State} {op : TransferOp}

/-- A run begins with its first cycle. -/
theorem clocks_succ_of_clock {n : Nat} (h : clock s = .next t) : clocks (n + 1) s = clocks n t := by
  rw [clocks, h]

/-- After q half-periods of the transfer that `beginTransfer op s` begins, the engine is in state t. -/
def AtHalf (s : State) (op : TransferOp) (q : Nat) (t : State) : Prop :=
  clocks (s.cfg.half * q) (beginTransfer op s) = .next t

theorem AtHalf.succ {q : Nat} (h : AtHalf s op q t) (ht : clocks s.cfg.half t = .next u) : AtHalf s op (q + 1) u :=
  (clocks_add h).trans ht

section Halves
variable (h1 : 1 ≤ s.cfg.half) (hr : s.inp.rst = false)
include h1 hr

/-- PH_B by induction on the bit: the low half of bit k is half-period 2k + 1. -/
theorem atHalf_outLow (k : Nat) (hk : k < 8) : AtHalf s op (2 * k + 1) (outLow s op ⟨k, hk⟩) := by
  induction k with
  | zero => exact AtHalf.succ (q := 0) rfl (clocks_phA h1 hr)
  | succ k ih =>
    have hlt : k < 8 := by omega
    have hlast : (⟨k, hlt⟩ : Fin 8) ≠ 7 := Fin.ne_of_val_ne (show k ≠ 7 by omega)
    have hnext : (⟨k, hlt⟩ : Fin 8) + 1 = ⟨k + 1, hk⟩ := Fin.ext (Nat.mod_eq_of_lt hk)
    have hlow := ((ih hlt).succ (clocks_outLow h1 hr ⟨k, hlt⟩)).succ (clocks_outHigh h1 hr ⟨k, hlt⟩ hlast)
    rwa [hnext] at hlow

theorem atHalf_outHigh (k : Fin 8) : AtHalf s op (2 * k.val + 2) (outHigh s op k) :=
  (atHalf_outLow h1 hr k.val k.isLt).succ (clocks_outLow h1 hr k)

theorem atHalf_latchRelease : AtHalf s op 17 (latchRelease s op) :=
  (atHalf_outHigh h1 hr 7).succ (clocks_outHigh_last h1 hr)

/-- PH_D by induction on the bit: the low half of bit k is half-period 2k + 18. -/
theorem atHalf_inLow (k : Nat) (hk : k < 8) : AtHalf s op (2 * k + 18) (inLow s op ⟨k, hk⟩) := by
  induction k with
  | zero => exact (atHalf_latchRelease h1 hr).succ (clocks_phC h1 hr)
  | succ k ih =>
    have hlt : k < 8 := by omega
    have hlast : (⟨k, hlt⟩ : Fin 8) ≠ 7 := Fin.ne_of_val_ne (show k ≠ 7 by omega)
    have hnext : (⟨k, hlt⟩ : Fin 8) + 1 = ⟨k + 1, hk⟩ := Fin.ext (Nat.mod_eq_of_lt hk)
    have hlow := ((ih hlt).succ (clocks_inLow h1 hr ⟨k, hlt⟩)).succ (clocks_inHigh h1 hr ⟨k, hlt⟩ hlast)
    rwa [hnext] at hlow

theorem atHalf_inHigh (k : Fin 8) : AtHalf s op (2 * k.val + 19) (inHigh s op k) :=
  (atHalf_inLow h1 hr k.val k.isLt).succ (clocks_inLow h1 hr k)

/-- R101: the COMMIT cycle is cycle 34·HALF + 1, and what the 34 half-periods did is `runTransfer`. -/
theorem atHalf_commit : AtHalf s op 34 (runTransfer (beginTransfer op s)) :=
  (atHalf_inHigh h1 hr 7).succ (clocks_inHigh_last h1 hr)

end Halves

/-- What every state at the start of a half-period has: HC = 0, and the registers, ports and configuration of the acceptance. -/
structure HalfStart (s : State) (op : TransferOp) (t : State) : Prop where
  shifting : Shifting t
  hc : t.sqr.hc = 0
  cfg : t.cfg = s.cfg
  inp : t.inp = s.inp
  regs : t.regs = (beginTransfer op s).regs

theorem halfStart_beginTransfer : HalfStart s op (beginTransfer op s) := ⟨⟨nofun, nofun⟩, rfl, rfl, rfl, rfl⟩

theorem halfStart_outLow (k : Fin 8) : HalfStart s op (outLow s op k) := ⟨⟨nofun, nofun⟩, rfl, rfl, rfl, rfl⟩

theorem halfStart_outHigh (k : Fin 8) : HalfStart s op (outHigh s op k) := ⟨⟨nofun, nofun⟩, rfl, rfl, rfl, rfl⟩

theorem halfStart_latchRelease : HalfStart s op (latchRelease s op) := ⟨⟨nofun, nofun⟩, rfl, rfl, rfl, rfl⟩

theorem halfStart_inLow (k : Fin 8) : HalfStart s op (inLow s op k) := ⟨⟨nofun, nofun⟩, rfl, rfl, rfl, rfl⟩

theorem halfStart_inHigh (k : Fin 8) : HalfStart s op (inHigh s op k) := ⟨⟨nofun, nofun⟩, rfl, rfl, rfl, rfl⟩

/-- Inside a half-period only HC counts. -/
theorem AtHalf.hold {q j : Nat} (hat : AtHalf s op q t) (hstart : HalfStart s op t) (hr : s.inp.rst = false)
    (hj : j < s.cfg.half) : clocks (s.cfg.half * q + j) (beginTransfer op s) = .next (atHc j t) :=
  (clocks_add hat).trans
    (clocks_hold (hstart.inp ▸ hr) hstart.shifting hstart.hc (hstart.cfg ▸ hj))

section Cycles
variable (h1 : 1 ≤ s.cfg.half) (hr : s.inp.rst = false)
include h1 hr

/-- Each of the 34 half-periods has its start. -/
theorem exists_halfStart {q : Nat} (hq : q < 34) : ∃ t, AtHalf s op q t ∧ HalfStart s op t := by
  obtain ⟨k, rfl | rfl⟩ := Nat.even_or_odd' q
  · obtain rfl | hpos := Nat.eq_zero_or_pos k
    · exact ⟨_, rfl, halfStart_beginTransfer⟩
    obtain hB | hD := Nat.lt_or_ge k 9
    · have hat := atHalf_outHigh (op := op) h1 hr ⟨k - 1, by omega⟩
      rw [show 2 * (k - 1) + 2 = 2 * k by omega] at hat
      exact ⟨_, hat, halfStart_outHigh _⟩
    · have hat := atHalf_inLow (op := op) h1 hr (k - 9) (by omega)
      rw [show 2 * (k - 9) + 18 = 2 * k by omega] at hat
      exact ⟨_, hat, halfStart_inLow _⟩
  · obtain hB | rfl | hD := Nat.lt_trichotomy k 8
    · exact ⟨_, atHalf_outLow h1 hr k hB, halfStart_outLow _⟩
    · exact ⟨_, atHalf_latchRelease h1 hr, halfStart_latchRelease⟩
    · have hat := atHalf_inHigh (op := op) h1 hr ⟨k - 9, by omega⟩
      rw [show 2 * (k - 9) + 19 = 2 * k + 1 by omega] at hat
      exact ⟨_, hat, halfStart_inHigh _⟩

/-- R243: in each of the 34·HALF + 1 cycles after the acceptance a transfer is in flight and no register has been written. -/
theorem clocks_in_flight {n : Nat} (hn : n ≤ 34 * s.cfg.half) :
    ∃ t, clocks n (beginTransfer op s) = .next t ∧ t.sqr.phase ≠ .idle ∧ t.cfg = s.cfg ∧
      t.regs = (beginTransfer op s).regs := by
  obtain hlt | rfl := Nat.lt_or_eq_of_le hn
  · have hq : n / s.cfg.half < 34 := (Nat.div_lt_iff_lt_mul h1).mpr hlt
    obtain ⟨t, hat, hstart⟩ := exists_halfStart (op := op) h1 hr hq
    have hrun := hat.hold hstart hr (Nat.mod_lt n h1)
    rw [Nat.div_add_mod] at hrun
    exact ⟨_, hrun, hstart.shifting.1, hstart.cfg, hstart.regs⟩
  · rw [Nat.mul_comm]
    exact ⟨_, atHalf_commit h1 hr, nofun, rfl, rfl⟩

/-- The cycle after COMMIT has the committed state. -/
theorem clocks_commit :
    clocks (34 * s.cfg.half + 1) (beginTransfer op s) = .next (commitTransfer (runTransfer (beginTransfer op s))) := by
  have hcommit : clocks (34 * s.cfg.half) (beginTransfer op s) = .next (runTransfer (beginTransfer op s)) := by
    rw [Nat.mul_comm]
    exact atHalf_commit h1 hr
  have hclock : clock (runTransfer (beginTransfer op s)) = .next (commitTransfer (runTransfer (beginTransfer op s))) :=
    clock_busy hr nofun
  exact (clocks_add hcommit).trans (clocks_succ_of_clock (n := 0) hclock)

end Cycles

/-- Settles O50: the half-period that holds the cycle, and j cycles in it; then COMMIT and the cycle after it. -/
theorem transferWaveform : Obligations.TransferWaveform := by
  rintro s op _ rfl h1 hr
  refine ⟨fun j hj => ?_, fun k j hj => ?_, fun k j hj => ?_, fun j hj => ?_, fun k j hj => ?_, fun k j hj => ?_, ?_, ?_⟩
  · exact ⟨_, clocks_hold hr ⟨nofun, nofun⟩ rfl hj, rfl, fun _ => rfl⟩
  · exact ⟨_, (atHalf_outLow h1 hr k.val k.isLt).hold (halfStart_outLow k) hr hj, rfl, rfl, fun _ => rfl⟩
  · exact ⟨_, (atHalf_outHigh h1 hr k).hold (halfStart_outHigh k) hr hj, rfl, rfl, fun _ => rfl⟩
  · rw [Nat.mul_comm]
    exact ⟨_, (atHalf_latchRelease h1 hr).hold halfStart_latchRelease hr hj, rfl, fun _ => rfl⟩
  · exact ⟨_, (atHalf_inLow h1 hr k.val k.isLt).hold (halfStart_inLow k) hr hj, rfl, rfl,
      fun n => sdiLevel_advance k.val n (beginTransfer op s)⟩
  · exact ⟨_, (atHalf_inHigh h1 hr k).hold (halfStart_inHigh k) hr hj, rfl, rfl,
      fun n => sdiLevel_advance (k.val + 1) n (beginTransfer op s)⟩
  · rw [Nat.mul_comm]
    exact ⟨_, atHalf_commit h1 hr, rfl, rfl⟩
  · refine ⟨_, clocks_commit h1 hr, ?_⟩
    cases op <;> exact ⟨rfl, rfl⟩

/-- Settles O52: every cycle up to COMMIT has a transfer in flight with BUSY as the acceptance set it; the commit ends both. -/
theorem busyLastsThirtyFourHalvesAndOne : Obligations.BusyLastsThirtyFourHalvesAndOne := by
  intro s op h1 hr
  refine ⟨fun n hn => ?_, _, clocks_commit h1 hr, ?_⟩
  · obtain ⟨t, hrun, hflight, -, hregs⟩ := clocks_in_flight (op := op) h1 hr (Nat.le_of_lt_succ hn)
    exact ⟨t, hrun, congrArg Regs.busy hregs, by simp [cmdReady, hflight]⟩
  · cases op <;> exact ⟨rfl, cmdReady_iff.mpr ⟨hr, rfl⟩⟩

/-- BUSY is read at address 0 and nowhere else. -/
theorem readPort_beginTransfer (s : State) (op : TransferOp) {a : ReadAddr} (ha : a ≠ 0x00#5) :
    readPort (beginTransfer op s) a = readPort s a := by
  have hne : a.toNat ≠ 0 := fun h => ha (BitVec.eq_of_toNat_eq h)
  unfold readPort
  split
  case h_1 h => exact absurd h hne
  all_goals rfl

/-- Settles O43: up to COMMIT no register has been written but BUSY, by the acceptance. -/
theorem readsDuringBusyAreTheOldValues : Obligations.ReadsDuringBusyAreTheOldValues := by
  intro s op n h1 hr hn
  obtain ⟨t, hrun, -, hcfg, hregs⟩ := clocks_in_flight (op := op) h1 hr hn
  have hread (a : ReadAddr) : readPort t a = readPort (beginTransfer op s) a :=
    readPort_congr (s := beginTransfer op s) hcfg hregs a
  exact ⟨t, hrun, fun a ha => (hread a).trans (readPort_beginTransfer s op ha), hread 0x00#5⟩

/-- Settles O51: the acceptance begins the transfer, and both ends are the commit of `runTransfer`. -/
theorem collapsedTransferIsTheClockedTransfer : Obligations.CollapsedTransferIsTheClockedTransfer := by
  intro s i hi h1 hr hvalid hidle hdecode
  have hclock := clock_of_offered (cmdReady_iff.mpr ⟨hr, hidle⟩) hvalid
  obtain rfl | rfl := hi
  · rw [clocks_succ_of_clock (hclock.trans (acceptWord_of_sample hdecode)), clocks_commit h1 hr]
    rfl
  · rw [clocks_succ_of_clock (hclock.trans (acceptWord_of_tick hdecode)), clocks_commit h1 hr]
    rfl

/-- `s` with another level on `now`. -/
def driveNow (time : Nat) (s : State) : State := { s with inp := { s.inp with now := time } }

/-- No cycle of a transfer but COMMIT looks at `now`. -/
theorem transferCycle_driveNow (time : Nat) (hcommit : s.sqr.phase ≠ .commit) :
    transferCycle (driveNow time s) = driveNow time (transferCycle s) := by
  have hlast : lastOfHalf (driveNow time s) = lastOfHalf s := rfl
  have hsqr : (driveNow time s).sqr = s.sqr := rfl
  have hpins : (driveNow time s).pins = s.pins := rfl
  unfold transferCycle
  rw [hlast, hsqr, hpins]
  cases hphase : s.sqr.phase with
  | commit => exact absurd hphase hcommit
  | idle => rfl
  | phA | phB | phC | phD =>
    dsimp only
    split_ifs <;> rfl

/-- Settles O53: before COMMIT the clock commutes with driving `now`, and the state of the COMMIT cycle has `now` as an input. -/
theorem tickReadsNowInItsCommitCycle : Obligations.TickReadsNowInItsCommitCycle := by
  constructor
  · intro s time hr hidle hcommit
    refine ⟨transferCycle s, clock_busy hr hidle, ?_⟩
    have hdriven : clock (driveNow time s) = .next (transferCycle (driveNow time s)) := clock_busy hr hidle
    exact hdriven.trans (congrArg _ (transferCycle_driveNow time hcommit))
  · intro s h1 hr hvalid hidle hdecode
    have hclock := clock_of_offered (cmdReady_iff.mpr ⟨hr, hidle⟩) hvalid
    have hrun : clocks (34 * s.cfg.half + 1) s = .next (runTransfer (beginTransfer .tick s)) := by
      rw [clocks_succ_of_clock (hclock.trans (acceptWord_of_tick hdecode)), Nat.mul_comm]
      exact atHalf_commit h1 hr
    exact ⟨_, hrun, rfl, rfl, fun time => clock_busy (s := driveNow time (runTransfer (beginTransfer .tick s))) hr nofun⟩

/-- Settles O54: OB takes the EXT that SETBIT wrote, and each high half of PH_B shows its bit of OB. -/
theorem setbitThenTransferSendsTheNewByte : Obligations.SetbitThenTransferSendsTheNewByte := by
  intro s line value op k h1 hr
  have hat := atHalf_outHigh (s := setLastErr errNone (writeLine line value s)) (op := op) h1 hr k
  exact ⟨_, _, rfl, hat, rfl, rfl, rfl, getLsbD_setLine s.regs.ext line (serialPos s.cfg.shiftOut k) value⟩

end Sys2Proof.Machine
end
